-- ==== Sys2Proof/Word.lean ====
section
/-! DEFINITION. The word types of the machine (spec 00_scope.md R7, R8; 30_encoding.md R91). -/

namespace Sys2Proof

/-- A byte of memory, a general register, a timer, the immediate `nn`. -/
abbrev Byte := BitVec 8

/-- A 16-bit value: an opcode, `I`, `PC`, a stack entry. -/
abbrev Word := BitVec 16

/-- A 4-bit opcode field (`n`, the top nibble, a sub-selector). -/
abbrev Nibble := BitVec 4

/-- A register selector `x` or `y`: it names `V[0]` to `V[15]` (R21, R91). -/
abbrev RegIdx := BitVec 4

/-- A key code 0x0 to 0xF (R40). -/
abbrev Key := BitVec 4

/-- The 12-bit immediate address `nnn` (R91). -/
abbrev Addr12 := BitVec 12

end Sys2Proof
end

