-- ==== Sys2Proof/Syntax.lean ====
section
/-! DEFINITION. The 34 instructions (spec 30_encoding.md R96), one constructor a row of the opcode table, each with the
operand fields its format gives it (R97). `SHR` and `SHL` keep the field `y` that their rules ignore (R105). -/

namespace Sys2Proof

/-- The instructions, in the order of R96. -/
inductive Instr where
  /-- `00E0` -/
  | cls
  /-- `00EE` -/
  | ret
  /-- `1nnn` -/
  | jp (nnn : Addr12)
  /-- `2nnn` -/
  | call (nnn : Addr12)
  /-- `3xnn` -/
  | se (x : RegIdx) (nn : Byte)
  /-- `4xnn` -/
  | sne (x : RegIdx) (nn : Byte)
  /-- `5xy0` -/
  | ser (x y : RegIdx)
  /-- `6xnn` -/
  | ldb (x : RegIdx) (nn : Byte)
  /-- `7xnn` -/
  | addb (x : RegIdx) (nn : Byte)
  /-- `8xy0` -/
  | mov (x y : RegIdx)
  /-- `8xy1` -/
  | or (x y : RegIdx)
  /-- `8xy2` -/
  | and (x y : RegIdx)
  /-- `8xy3` -/
  | xor (x y : RegIdx)
  /-- `8xy4` -/
  | add (x y : RegIdx)
  /-- `8xy5` -/
  | sub (x y : RegIdx)
  /-- `8xy6`, `y` unused -/
  | shr (x y : RegIdx)
  /-- `8xy7` -/
  | subn (x y : RegIdx)
  /-- `8xyE`, `y` unused -/
  | shl (x y : RegIdx)
  /-- `9xy0` -/
  | sner (x y : RegIdx)
  /-- `Annn` -/
  | ldix (nnn : Addr12)
  /-- `Bnnn` -/
  | jpv0 (nnn : Addr12)
  /-- `Cxnn` -/
  | rnd (x : RegIdx) (nn : Byte)
  /-- `Dxyn` -/
  | drw (x y : RegIdx) (n : Nibble)
  /-- `Ex9E` -/
  | skp (x : RegIdx)
  /-- `ExA1` -/
  | sknp (x : RegIdx)
  /-- `Fx07` -/
  | getdt (x : RegIdx)
  /-- `Fx0A` -/
  | waitk (x : RegIdx)
  /-- `Fx15` -/
  | setdt (x : RegIdx)
  /-- `Fx18` -/
  | setst (x : RegIdx)
  /-- `Fx1E` -/
  | addix (x : RegIdx)
  /-- `Fx29` -/
  | font (x : RegIdx)
  /-- `Fx33` -/
  | bcd (x : RegIdx)
  /-- `Fx55` -/
  | stm (x : RegIdx)
  /-- `Fx65` -/
  | ldm (x : RegIdx)
deriving DecidableEq, Repr

/-- The mnemonic of R96. -/
def Instr.mnemonic : Instr → String
  | .cls => "CLS"
  | .ret => "RET"
  | .jp _ => "JP"
  | .call _ => "CALL"
  | .se _ _ => "SE"
  | .sne _ _ => "SNE"
  | .ser _ _ => "SER"
  | .ldb _ _ => "LDB"
  | .addb _ _ => "ADDB"
  | .mov _ _ => "MOV"
  | .or _ _ => "OR"
  | .and _ _ => "AND"
  | .xor _ _ => "XOR"
  | .add _ _ => "ADD"
  | .sub _ _ => "SUB"
  | .shr _ _ => "SHR"
  | .subn _ _ => "SUBN"
  | .shl _ _ => "SHL"
  | .sner _ _ => "SNER"
  | .ldix _ => "LDIX"
  | .jpv0 _ => "JPV0"
  | .rnd _ _ => "RND"
  | .drw _ _ _ => "DRW"
  | .skp _ => "SKP"
  | .sknp _ => "SKNP"
  | .getdt _ => "GETDT"
  | .waitk _ => "WAITK"
  | .setdt _ => "SETDT"
  | .setst _ => "SETST"
  | .addix _ => "ADDIX"
  | .font _ => "FONT"
  | .bcd _ => "BCD"
  | .stm _ => "STM"
  | .ldm _ => "LDM"

end Sys2Proof
end

