-- ==== Sys2Proof/Config.lean ====
section
/-! DEFINITION. What is fixed for one machine: the fixed parameters of R5, the open parameters of R6 and the free
inputs of R12. An open parameter or a free input is a constant with no body: no proof can see its value, so a
statement holds for every admissible one. -/

namespace Sys2Proof.Config

/-- `MEM_SIZE` (R5). -/
def memSize : Nat := 4096

/-- `PROG_BASE` (R5): load address of the program and reset value of `PC`. -/
def progBase : Nat := 0x200

/-- `MAX_PROG` (R5): the largest program in bytes. -/
def maxProg : Nat := 3584

/-- `FONT_LEN` (R5): 16 glyphs of 5 bytes. -/
def fontLen : Nat := 80

/-- `GLYPH_LEN` (R5). -/
def glyphLen : Nat := 5

/-- The two values of `UNKNOWN_POLICY` (R6, R258). -/
inductive UnknownPolicy where
  | strict
  | permissive
deriving DecidableEq, Repr, Inhabited

/-- `FONT_BASE` (R6, U2), left open by the spec. The type is R6's constraint `FONT_BASE + 80 <= 0x200`, that is
`FONT_BASE <= 432`. Log 1. -/
opaque fontBaseChoice : Fin 433

/-- `FONT_BASE` as a number. -/
def fontBase : Nat := fontBaseChoice.val

/-- `FONT_TABLE` (R6, U3), the 80 font bytes, left open by the spec. Log 2. -/
opaque fontTable : Fin 80 → Byte

/-- `UNKNOWN_POLICY` (R6, U1), left open by the spec. Log 3. -/
opaque unknownPolicy : UnknownPolicy

/-- The random source (R42, U4): the byte answered to the `k`-th question since `State.reset`. Log 5. -/
opaque randomByte : Nat → Byte

/-- The key query (R40, U5): whether a key is pressed at the `k`-th question since `State.reset`. Log 6. -/
opaque keyPressed : Nat → Key → Bool

end Sys2Proof.Config
end

