-- ==== Sys2Proof/WellFormed.lean ====
section
/-! DEFINITION. The checks on what is handed to the machine as data. An instruction's operands are bit fields of exactly
the widths of R91, so every term of `Instr` is well formed (Laws/Encoding.lean proves it); what a host can hand over in a
wrong form is an operand list with a value too wide for its field, and a program image that is too long (R292). -/

namespace Sys2Proof

/-- An operand of an instruction written as a number, and the width of the field it must fit (R91). -/
structure OperandField where
  value : Nat
  width : Nat
deriving DecidableEq, Repr

/-- A field holds a value of its width. -/
def OperandField.fits (f : OperandField) : Bool := decide (f.value < 2 ^ f.width)

/-- The operand fields of an instruction (R91, R97). -/
def Instr.operandFields : Instr → List OperandField
  | .cls | .ret => []
  | .jp nnn | .call nnn | .ldix nnn | .jpv0 nnn => [⟨nnn.toNat, 12⟩]
  | .se x nn | .sne x nn | .ldb x nn | .addb x nn | .rnd x nn => [⟨x.toNat, 4⟩, ⟨nn.toNat, 8⟩]
  | .ser x y | .mov x y | .or x y | .and x y | .xor x y | .add x y | .sub x y | .shr x y | .subn x y | .shl x y
  | .sner x y => [⟨x.toNat, 4⟩, ⟨y.toNat, 4⟩]
  | .drw x y n => [⟨x.toNat, 4⟩, ⟨y.toNat, 4⟩, ⟨n.toNat, 4⟩]
  | .skp x | .sknp x | .getdt x | .waitk x | .setdt x | .setst x | .addix x | .font x | .bcd x | .stm x
  | .ldm x => [⟨x.toNat, 4⟩]

/-- Every operand fits its field. -/
def Instr.wellFormed (i : Instr) : Bool := i.operandFields.all OperandField.fits

/-- A program image fits the memory from 0x200 on (R45, R290, R292). -/
def programFits (program : List Byte) : Bool := decide (program.length ≤ Config.maxProg)

end Sys2Proof
end

