-- ==== Sys2Proof/Decode.lean ====
section
/-! DEFINITION. The decoder (spec 30_encoding.md R90 to R99), the encoder written from the same formats (R92, R103), and the
opcode map of R96 as data. The decoder is the pseudocode of R98; the map is transcribed on its own, so that the two can be
held against each other. -/

namespace Sys2Proof

/-! ## The fields of a word (R91) -/

/-- `t = op[15:12]`. -/
def fieldT (op : Word) : Nibble := op.extractLsb' 12 4

/-- `x = op[11:8]`. -/
def fieldX (op : Word) : RegIdx := op.extractLsb' 8 4

/-- `y = op[7:4]`. -/
def fieldY (op : Word) : RegIdx := op.extractLsb' 4 4

/-- `n = op[3:0]`. -/
def fieldN (op : Word) : Nibble := op.extractLsb' 0 4

/-- `nn = op[7:0]`. -/
def fieldNN (op : Word) : Byte := op.extractLsb' 0 8

/-- `nnn = op[11:0]`. -/
def fieldNNN (op : Word) : Addr12 := op.extractLsb' 0 12

/-! ## The decoder -/

/-- The closed set of 35 variants of R94: the 34 instructions and `Unknown(op)`. -/
inductive Decoded where
  | known (i : Instr)
  | unknown (op : Word)
deriving DecidableEq, Repr

/-- Top nibble 0: only the two whole words 00E0 and 00EE (R95, R98). -/
def decode0 (op : Word) : Decoded :=
  if op = 0x00E0 then .known .cls else if op = 0x00EE then .known .ret else .unknown op

/-- Top nibble 5 (R98). -/
def decode5 (op : Word) : Decoded :=
  if fieldN op = 0 then .known (.ser (fieldX op) (fieldY op)) else .unknown op

/-- Top nibble 8 (R98). -/
def decode8 (op : Word) : Decoded :=
  match (fieldN op).toNat with
  | 0x0 => .known (.mov (fieldX op) (fieldY op))
  | 0x1 => .known (.or (fieldX op) (fieldY op))
  | 0x2 => .known (.and (fieldX op) (fieldY op))
  | 0x3 => .known (.xor (fieldX op) (fieldY op))
  | 0x4 => .known (.add (fieldX op) (fieldY op))
  | 0x5 => .known (.sub (fieldX op) (fieldY op))
  | 0x6 => .known (.shr (fieldX op) (fieldY op))
  | 0x7 => .known (.subn (fieldX op) (fieldY op))
  | 0xE => .known (.shl (fieldX op) (fieldY op))
  | _ => .unknown op

/-- Top nibble 9 (R98). -/
def decode9 (op : Word) : Decoded :=
  if fieldN op = 0 then .known (.sner (fieldX op) (fieldY op)) else .unknown op

/-- Top nibble E (R98). -/
def decodeE (op : Word) : Decoded :=
  match (fieldNN op).toNat with
  | 0x9E => .known (.skp (fieldX op))
  | 0xA1 => .known (.sknp (fieldX op))
  | _ => .unknown op

/-- Top nibble F (R98). -/
def decodeF (op : Word) : Decoded :=
  match (fieldNN op).toNat with
  | 0x07 => .known (.getdt (fieldX op))
  | 0x0A => .known (.waitk (fieldX op))
  | 0x15 => .known (.setdt (fieldX op))
  | 0x18 => .known (.setst (fieldX op))
  | 0x1E => .known (.addix (fieldX op))
  | 0x29 => .known (.font (fieldX op))
  | 0x33 => .known (.bcd (fieldX op))
  | 0x55 => .known (.stm (fieldX op))
  | 0x65 => .known (.ldm (fieldX op))
  | _ => .unknown op

/-- `Decode` (R94, R98): total, pure, and `Unknown(op)` for every word no row of R96 matches (R99). -/
def decodeWord (op : Word) : Decoded :=
  match (fieldT op).toNat with
  | 0x0 => decode0 op
  | 0x1 => .known (.jp (fieldNNN op))
  | 0x2 => .known (.call (fieldNNN op))
  | 0x3 => .known (.se (fieldX op) (fieldNN op))
  | 0x4 => .known (.sne (fieldX op) (fieldNN op))
  | 0x5 => decode5 op
  | 0x6 => .known (.ldb (fieldX op) (fieldNN op))
  | 0x7 => .known (.addb (fieldX op) (fieldNN op))
  | 0x8 => decode8 op
  | 0x9 => decode9 op
  | 0xA => .known (.ldix (fieldNNN op))
  | 0xB => .known (.jpv0 (fieldNNN op))
  | 0xC => .known (.rnd (fieldX op) (fieldNN op))
  | 0xD => .known (.drw (fieldX op) (fieldY op) (fieldN op))
  | 0xE => decodeE op
  | _ => decodeF op

/-! ## Bytes (R63, R90) -/

/-- The opcode of two consecutive bytes, the high byte at the lower address (R63). -/
def wordOfBytes (hi lo : Byte) : Word := hi ++ lo

/-- The byte of a word at the lower address. -/
def highByte (op : Word) : Byte := op.extractLsb' 8 8

/-- The byte of a word at the higher address. -/
def lowByte (op : Word) : Byte := op.extractLsb' 0 8

/-- Why a byte sequence gives no instruction. -/
inductive DecodeError where
  /-- fewer than the two bytes of an instruction (R90) -/
  | truncated
  /-- the word is one of the unknown words of R99 -/
  | unknownOpcode (op : Word)
deriving DecidableEq, Repr

/-- One instruction from the front of a byte sequence, with the bytes after it. -/
def decodeBytes : List Byte → Except DecodeError (Instr × List Byte)
  | hi :: lo :: rest =>
    match decodeWord (wordOfBytes hi lo) with
    | .known i => .ok (i, rest)
    | .unknown op => .error (.unknownOpcode op)
  | _ => .error .truncated

/-! ## The encoder (R92, R96, R103) -/

/-- Format `NNN`: `t`, `nnn`. -/
def wordNNN (t : Nibble) (nnn : Addr12) : Word := t ++ nnn

/-- Format `XNN`: `t`, `x`, `nn`. -/
def wordXNN (t : Nibble) (x : RegIdx) (nn : Byte) : Word := (t ++ x) ++ nn

/-- Formats `XYK` and `XYN`: `t`, `x`, `y`, low nibble. -/
def wordXYN (t : Nibble) (x y : RegIdx) (n : Nibble) : Word := ((t ++ x) ++ y) ++ n

/-- The word of an instruction. -/
def encode : Instr → Word
  | .cls => 0x00E0
  | .ret => 0x00EE
  | .jp nnn => wordNNN 0x1 nnn
  | .call nnn => wordNNN 0x2 nnn
  | .se x nn => wordXNN 0x3 x nn
  | .sne x nn => wordXNN 0x4 x nn
  | .ser x y => wordXYN 0x5 x y 0x0
  | .ldb x nn => wordXNN 0x6 x nn
  | .addb x nn => wordXNN 0x7 x nn
  | .mov x y => wordXYN 0x8 x y 0x0
  | .or x y => wordXYN 0x8 x y 0x1
  | .and x y => wordXYN 0x8 x y 0x2
  | .xor x y => wordXYN 0x8 x y 0x3
  | .add x y => wordXYN 0x8 x y 0x4
  | .sub x y => wordXYN 0x8 x y 0x5
  | .shr x y => wordXYN 0x8 x y 0x6
  | .subn x y => wordXYN 0x8 x y 0x7
  | .shl x y => wordXYN 0x8 x y 0xE
  | .sner x y => wordXYN 0x9 x y 0x0
  | .ldix nnn => wordNNN 0xA nnn
  | .jpv0 nnn => wordNNN 0xB nnn
  | .rnd x nn => wordXNN 0xC x nn
  | .drw x y n => wordXYN 0xD x y n
  | .skp x => wordXNN 0xE x 0x9E
  | .sknp x => wordXNN 0xE x 0xA1
  | .getdt x => wordXNN 0xF x 0x07
  | .waitk x => wordXNN 0xF x 0x0A
  | .setdt x => wordXNN 0xF x 0x15
  | .setst x => wordXNN 0xF x 0x18
  | .addix x => wordXNN 0xF x 0x1E
  | .font x => wordXNN 0xF x 0x29
  | .bcd x => wordXNN 0xF x 0x33
  | .stm x => wordXNN 0xF x 0x55
  | .ldm x => wordXNN 0xF x 0x65

/-- The two bytes of an instruction as memory holds them (R63). -/
def encodeBytes (i : Instr) : List Byte := [highByte (encode i), lowByte (encode i)]

/-! ## The opcode map of R96 as data -/

/-- The six formats of R92. -/
inductive Format where
  | fixed
  | nnn
  | xnn
  | xyk
  | xyn
  | xkk
deriving DecidableEq, Repr

/-- The bits of a word that are literal in a format (R92). -/
def literalMask : Format → Word
  | .fixed => 0xFFFF
  | .nnn => 0xF000
  | .xnn => 0xF000
  | .xyk => 0xF00F
  | .xyn => 0xF000
  | .xkk => 0xF0FF

/-- A row of R96: `op` is this instruction if and only if `op and mask = value`. -/
structure OpcodeRow where
  mnemonic : String
  value : Word
  mask : Word
  format : Format
deriving DecidableEq, Repr

/-- A row is well formed when its mask is that of its format and its value lies inside the mask (R92, R97). -/
def rowWellFormed (row : OpcodeRow) : Bool :=
  row.mask == literalMask row.format && row.value &&& row.mask == row.value

/-- A word matches a row (R96). -/
def rowMatches (row : OpcodeRow) (op : Word) : Bool := op &&& row.mask == row.value

/-- Rows 1 to 9 of R96. -/
def opcodeRowsLow : List OpcodeRow :=
  [⟨"CLS", 0x00E0, 0xFFFF, .fixed⟩, ⟨"RET", 0x00EE, 0xFFFF, .fixed⟩, ⟨"JP", 0x1000, 0xF000, .nnn⟩,
   ⟨"CALL", 0x2000, 0xF000, .nnn⟩, ⟨"SE", 0x3000, 0xF000, .xnn⟩, ⟨"SNE", 0x4000, 0xF000, .xnn⟩,
   ⟨"SER", 0x5000, 0xF00F, .xyk⟩, ⟨"LDB", 0x6000, 0xF000, .xnn⟩, ⟨"ADDB", 0x7000, 0xF000, .xnn⟩]

/-- Rows 10 to 18 of R96. -/
def opcodeRowsAlu : List OpcodeRow :=
  [⟨"MOV", 0x8000, 0xF00F, .xyk⟩, ⟨"OR", 0x8001, 0xF00F, .xyk⟩, ⟨"AND", 0x8002, 0xF00F, .xyk⟩,
   ⟨"XOR", 0x8003, 0xF00F, .xyk⟩, ⟨"ADD", 0x8004, 0xF00F, .xyk⟩, ⟨"SUB", 0x8005, 0xF00F, .xyk⟩,
   ⟨"SHR", 0x8006, 0xF00F, .xyk⟩, ⟨"SUBN", 0x8007, 0xF00F, .xyk⟩, ⟨"SHL", 0x800E, 0xF00F, .xyk⟩]

/-- Rows 19 to 25 of R96. -/
def opcodeRowsMid : List OpcodeRow :=
  [⟨"SNER", 0x9000, 0xF00F, .xyk⟩, ⟨"LDIX", 0xA000, 0xF000, .nnn⟩, ⟨"JPV0", 0xB000, 0xF000, .nnn⟩,
   ⟨"RND", 0xC000, 0xF000, .xnn⟩, ⟨"DRW", 0xD000, 0xF000, .xyn⟩, ⟨"SKP", 0xE09E, 0xF0FF, .xkk⟩,
   ⟨"SKNP", 0xE0A1, 0xF0FF, .xkk⟩]

/-- Rows 26 to 34 of R96. -/
def opcodeRowsHigh : List OpcodeRow :=
  [⟨"GETDT", 0xF007, 0xF0FF, .xkk⟩, ⟨"WAITK", 0xF00A, 0xF0FF, .xkk⟩, ⟨"SETDT", 0xF015, 0xF0FF, .xkk⟩,
   ⟨"SETST", 0xF018, 0xF0FF, .xkk⟩, ⟨"ADDIX", 0xF01E, 0xF0FF, .xkk⟩, ⟨"FONT", 0xF029, 0xF0FF, .xkk⟩,
   ⟨"BCD", 0xF033, 0xF0FF, .xkk⟩, ⟨"STM", 0xF055, 0xF0FF, .xkk⟩, ⟨"LDM", 0xF065, 0xF0FF, .xkk⟩]

/-- The complete map of R96. -/
def opcodeTable : List OpcodeRow := opcodeRowsLow ++ opcodeRowsAlu ++ opcodeRowsMid ++ opcodeRowsHigh

/-! ## The host's question -/

/-- The word of an instruction whose bits are `w`, `nbits` of them given and the rest zero. -/
def tableWord (nbits w : Nat) : Word := BitVec.ofNat 16 (w % 2 ^ nbits)

/-- What the decoder reads from the bytes of an instruction whose bits are `w`. -/
def decodeTableWord (nbits w : Nat) : Option Instr :=
  match decodeBytes [highByte (tableWord nbits w), lowByte (tableWord nbits w)] with
  | .ok (i, _) => some i
  | .error _ => none

end Sys2Proof
end

