-- ==== Sys2Proof/Machine/State.lean ====
section
/-! DEFINITION. The machine state (spec 10_state.md R20), the reasons a step can stop, and the state after reset (R36). -/

namespace Sys2Proof.Machine

/-- Main memory `MEM[0..4095]` (R29): the addresses that do not hold what they held right after a reset with an empty
program, in rising order. The canonical form is `Memory.wf`; what an unlisted address reads as is `Memory.initial`
(Machine/Ops.lean). -/
abbrev Memory := List Host.Cell

/-- The framebuffer `FB[0..2047]` (R30): row `y` of 32, and in it bit `x` of 64 is the cell `FB[x + 64*y]`. -/
abbrev Framebuffer := Vector (BitVec 64) 32

/-- The run state `RUN` (R31). -/
inductive RunState where
  | running
  | awaitingKey (r : RegIdx)
  | halted
deriving DecidableEq, Repr

/-- The kinds of error (R250); `none` is code 0, no error since reset. -/
inductive ErrorKind where
  | none
  | loadError
  | stackOverflow
  | stackUnderflow
  | unknownOpcode
  | outOfRange
deriving DecidableEq, Repr

/-- The record `ERR` (R32); every field reads zero when it is not valid. -/
structure ErrorRecord where
  kind        : ErrorKind
  pc          : Word
  opcodeValid : Bool
  opcode      : Word
  addrValid   : Bool
  addr        : Word
deriving DecidableEq, Repr

/-- `ERR` with all fields 0 (R36). -/
def ErrorRecord.clear : ErrorRecord :=
  { kind := .none, pc := 0, opcodeValid := false, opcode := 0, addrValid := false, addr := 0 }

/-- What the host delivers between two steps: a request for an instruction step (R44), a tick (R43), a key event (R41), a
reset with a program image (R45). -/
inductive HostInput where
  | stepRequest
  | tick
  | keyEvent (k : Key)
  | reset (program : List Byte)
deriving DecidableEq, Repr

/-- The machine state: the eleven pieces of R20, and three fields of the model's own that stand for the inputs of R33 and
R12 (logs 5, 6, 7). -/
structure State where
  /-- `V[0..15]` (R21) -/
  v           : Vector Byte 16
  /-- `I` (R23) -/
  i           : Word
  /-- `PC` (R24) -/
  pc          : Word
  /-- `SP`, 0 to 16 (R26) -/
  sp          : Fin 17
  /-- `STK[0..15]` (R26) -/
  stk         : Vector Word 16
  /-- `DT` (R27) -/
  dt          : Byte
  /-- `ST` (R28) -/
  st          : Byte
  /-- `MEM` (R29) -/
  mem         : Memory
  /-- `FB` (R30) -/
  fb          : Framebuffer
  /-- `RUN` (R31) -/
  run         : RunState
  /-- `ERR` (R32) -/
  err         : ErrorRecord
  /-- the model's own: what the host delivers next, first one first; when it is empty the host requests steps (R123) -/
  hostInputs  : List HostInput
  /-- the model's own: how many random bytes have been asked for (R42) -/
  randomDraws : Nat
  /-- the model's own: how many key queries have been asked (R40) -/
  keyQueries  : Nat
deriving DecidableEq, Repr

/-- Faults. There is none: every error of the spec is an entry it describes (R257), so it is a next state with `ERR` written
and `RUN = Halted`; nothing raises a fault. Log 9. -/
inductive Fault where
deriving DecidableEq, Repr

/-- Refusals. -/
inductive Refusal where
  /-- raised by an arm of `exec` whose instruction has no meaning yet; safe, since the machine stops where the hardware goes
  on. No arm raises it now. -/
  | notModelled (mnemonic : String)
deriving DecidableEq, Repr

/-- The outcome of a meaning or a step. -/
abbrev Result := Host.Outcome State Fault Refusal

/-- The state after `Reset(P)` with an empty program (R36, R290): memory lists nothing, so it reads as the font and zeros. -/
def State.reset : State where
  v := Vector.replicate 16 0
  i := 0
  pc := 0x200
  sp := 0
  stk := Vector.replicate 16 0
  dt := 0
  st := 0
  mem := []
  fb := Vector.replicate 32 0
  run := .running
  err := ErrorRecord.clear
  hostInputs := []
  randomDraws := 0
  keyQueries := 0

end Sys2Proof.Machine
end

