-- ==== Sys2Proof/Machine/Ops.lean ====
section
/-! DEFINITION. The named operations over the state: one update per field, memory, the stack unit, the framebuffer, the
program counter, taking an error, reset. -/

namespace Sys2Proof.Machine

/-! ## One update per field -/

def State.setV (s : State) (a : Vector Byte 16) : State := { s with v := a }
def State.setI (s : State) (a : Word) : State := { s with i := a }
def State.setPc (s : State) (a : Word) : State := { s with pc := a }
def State.setStack (s : State) (n : Fin 17) (a : Vector Word 16) : State := { s with sp := n, stk := a }
def State.setDt (s : State) (a : Byte) : State := { s with dt := a }
def State.setSt (s : State) (a : Byte) : State := { s with st := a }
def State.setMem (s : State) (a : Memory) : State := { s with mem := a }
def State.setFb (s : State) (a : Framebuffer) : State := { s with fb := a }
def State.setRun (s : State) (a : RunState) : State := { s with run := a }
def State.setErr (s : State) (a : ErrorRecord) : State := { s with err := a }
def State.setHostInputs (s : State) (a : List HostInput) : State := { s with hostInputs := a }

/-- One more random byte has been asked for (R42). -/
def State.countRandomDraw (s : State) : State := { s with randomDraws := s.randomDraws + 1 }

/-- One more key query has been asked (R40). -/
def State.countKeyQuery (s : State) : State := { s with keyQueries := s.keyQueries + 1 }

/-! ## Main memory (R10, R29, R60 to R66) -/

/-- What an unlisted address reads as: the byte a reset with an empty program leaves there (R36, R290), that is the font
table's byte inside the font and zero elsewhere. The font lies below 0x200 (R6), so the first test settles every address of
the program area. Log 12. -/
def Memory.initial (a : Nat) : Byte :=
  if a < Config.progBase then
    if h : Config.fontBase ≤ a ∧ a < Config.fontBase + 80 then
      Config.fontTable ⟨a - Config.fontBase, by omega⟩
    else 0
  else 0

/-- The canonical form from address `lo` on: addresses strictly rising, every one exists, none holds what it would read as
if it were not listed. -/
def Memory.wfFrom (lo : Nat) : Memory → Bool
  | [] => true
  | (a, b) :: rest => decide (lo ≤ a) && decide (a < Config.memSize) && (b != Memory.initial a) && Memory.wfFrom (a + 1) rest

/-- The canonical form of memory. -/
def Memory.wf (m : Memory) : Bool := Memory.wfFrom 0 m

/-- The byte at an address. -/
def Memory.read (m : Memory) (a : Nat) : Byte :=
  match m with
  | [] => Memory.initial a
  | (k, b) :: rest => if a = k then b else Memory.read rest a

/-- List an address with its byte. -/
def Memory.insert (m : Memory) (a : Nat) (b : Byte) : Memory :=
  match m with
  | [] => [(a, b)]
  | (k, c) :: rest =>
    if a < k then (a, b) :: (k, c) :: rest
    else if a = k then (a, b) :: rest
    else (k, c) :: Memory.insert rest a b

/-- Stop listing an address. -/
def Memory.erase (m : Memory) (a : Nat) : Memory :=
  match m with
  | [] => []
  | (k, c) :: rest => if a = k then Memory.erase rest a else (k, c) :: Memory.erase rest a

/-- Write a byte (`MemWrite(a, 1, b)`, R10). An address outside memory is not written: the instructions check their whole
range first (R66), so none of them comes here with one. -/
def Memory.write (m : Memory) (a : Nat) (b : Byte) : Memory :=
  if a < Config.memSize then
    if b = Memory.initial a then m.erase a else m.insert a b
  else m

/-- The `n` bytes from address `a` on, at ascending addresses (R64). -/
def Memory.readRun (m : Memory) (a : Nat) : Nat → List Byte
  | 0 => []
  | n + 1 => m.read a :: Memory.readRun m (a + 1) n

/-- Write bytes at ascending addresses from `a` on (R64). -/
def Memory.writeRun (m : Memory) (a : Nat) : List Byte → Memory
  | [] => m
  | b :: bs => Memory.writeRun (m.write a b) (a + 1) bs

/-- Memory right after a reset that stores `bytes` from address `a` on (R290). -/
def Memory.image (a : Nat) : List Byte → Memory
  | [] => []
  | b :: bs => if b = Memory.initial a then Memory.image (a + 1) bs else (a, b) :: Memory.image (a + 1) bs

/-- An access of `n` bytes from address `a` on touches an address above 0xFFF (R66); an access of no byte touches none. -/
def outOfRange (a n : Nat) : Bool := decide (0 < n) && decide (0xFFF < a + n - 1)

/-- The byte of memory at an address. -/
def State.readByte (s : State) (a : Nat) : Byte := s.mem.read a

/-! ## The framebuffer (R30) -/

/-- The cell `FB[p]`, `p = x + 64*y`. -/
def Framebuffer.pixel (fb : Framebuffer) (p : Nat) : Bool :=
  if h : p / 64 < 32 then fb[p / 64].getLsbD (p % 64) else false

/-- `FB[p] <- FB[p] xor 1`. -/
def Framebuffer.toggle (fb : Framebuffer) (p : Nat) : Framebuffer :=
  if h : p / 64 < 32 then fb.set (p / 64) (fb[p / 64] ^^^ BitVec.twoPow 64 (p % 64)) else fb

/-- All cells off (R210). -/
def Framebuffer.blank : Framebuffer := Vector.replicate 32 0

/-- The cell `FB[p]` of a state. -/
def State.pixel (s : State) (p : Nat) : Bool := s.fb.pixel p

/-! ## The program counter (R25, R127) -/

/-- `PC <- PC + 2`. -/
def State.advance (s : State) : State := s.setPc (s.pc + 2)

/-- `PC <- PC + 4` if the condition holds, else `PC <- PC + 2`. -/
def State.skipIf (s : State) (condition : Bool) : State := s.setPc (s.pc + if condition then 4 else 2)

/-! ## The stack unit (R140, R141) -/

/-- `Push(w)`; `none` when `SP = 16`. -/
def State.push (s : State) (w : Word) : Option State :=
  if h : s.sp.val < 16 then some (s.setStack ⟨s.sp.val + 1, by omega⟩ (s.stk.set s.sp.val w)) else none

/-- `Pop()`; `none` when `SP = 0`. The entry is not erased (R141). -/
def State.pop (s : State) : Option (Word × State) :=
  if h : 0 < s.sp.val then
    some (s.stk[s.sp.val - 1]'(by omega), s.setStack ⟨s.sp.val - 1, by omega⟩ s.stk)
  else none

/-! ## Errors (R11, R250 to R258) -/

/-- The numeric code of a kind (R250, R32: 3 bits). -/
def errorCode : ErrorKind → BitVec 3
  | .none => 0
  | .loadError => 1
  | .stackOverflow => 2
  | .stackUnderflow => 3
  | .unknownOpcode => 4
  | .outOfRange => 5

/-- The record of an error (R256): the opcode when the fetch succeeded, the base address for `OutOfRange`; what is absent
reads zero and its valid bit is 0. -/
def errorRecord (kind : ErrorKind) (pc : Word) (opcode addr : Option Word) : ErrorRecord :=
  { kind := kind, pc := pc, opcodeValid := opcode.isSome, opcode := opcode.getD 0,
    addrValid := addr.isSome, addr := addr.getD 0 }

/-- `raise` of a fatal error (R11, R256, R257): write `ERR`, halt, and change nothing else. -/
def State.raiseError (s : State) (kind : ErrorKind) (opcode addr : Option Word) : State :=
  (s.setErr (errorRecord kind s.pc opcode addr)).setRun .halted

/-- What `Unknown(op)` does under each policy (R258, C1). -/
def State.takeUnknown (s : State) (policy : Config.UnknownPolicy) (op : Word) : State :=
  match policy with
  | .strict => s.raiseError .unknownOpcode (some op) none
  | .permissive => (s.setErr (errorRecord .unknownOpcode s.pc (some op) none)).advance

/-! ## Reset and load (R290 to R292) -/

/-- The state `Reset(P)` constructs: R290 when the program fits, R292 when it does not. -/
def resetState (program : List Byte) : State :=
  if programFits program then
    State.reset.setMem (Memory.image Config.progBase program)
  else
    (State.reset.setErr (errorRecord .loadError 0x200 none none)).setRun .halted

/-- `Reset(P)` in a running system: the core's whole state is replaced; what the host still delivers and how often the
outside sources have been asked are no state of the core and go on (R45, log 5). -/
def State.hostReset (s : State) (program : List Byte) : State :=
  { resetState program with
    hostInputs := s.hostInputs, randomDraws := s.randomDraws, keyQueries := s.keyQueries }

end Sys2Proof.Machine
end

