-- ==== Sys2Proof/Machine/Operands.lean ====
section
/-! DEFINITION. The operand forms (spec 30_encoding.md R93): a register named by `x` or `y`, the implicit `V[0]`, the run
`V[0..x]`, the three immediates, the key selected by a register, the glyph selected by a register, the base address `I`. -/

namespace Sys2Proof.Machine

/-- The register number of VF (R22). -/
def flagReg : RegIdx := 0xF

/-- `V[x]` (R9, R21): no register is hard-wired. -/
def State.readV (s : State) (x : RegIdx) : Byte := s.v[x.toNat]'x.isLt

/-- `V[x] <- b` (R9, R21). -/
def State.writeV (s : State) (x : RegIdx) (b : Byte) : State := s.setV (s.v.set x.toNat b x.isLt)

/-- The immediate address zero-extended to 16 bits (R93). -/
def addrOf (nnn : Addr12) : Word := nnn.setWidth 16

/-- A byte zero-extended to 16 bits (R8). -/
def zext16 (b : Byte) : Word := b.setWidth 16

/-- The base address of a data access: `I` (R60). -/
def State.base (s : State) : Nat := s.i.toNat

/-- The number of registers in the run `V[0..x]`: `x + 1` (R64). -/
def runLength (x : RegIdx) : Nat := x.toNat + 1

/-- The values of the run `V[0..x]`, `V[0]` first (R194). -/
def State.readRegs (s : State) (x : RegIdx) : List Byte := s.v.toList.take (runLength x)

/-- Write bytes to consecutive registers from number `k` on (R195). -/
def State.writeRegs (s : State) (k : Nat) : List Byte → State
  | [] => s
  | b :: bs => State.writeRegs (s.writeV (BitVec.ofNat 4 k) b) (k + 1) bs

/-- The key a key skip asks about: the low four bits of `V[x]` (R233). -/
def State.keyOf (s : State) (x : RegIdx) : Key := (s.readV x).extractLsb' 0 4

/-- `FONT_BASE + 5 * vx` (R192), the formula without a mask. -/
def glyphAddress (vx : Byte) : Word := BitVec.ofNat 16 (Config.fontBase + Config.glyphLen * vx.toNat)

/-- `(I + vx) mod 4096` (R191). -/
def indexSum (i : Word) (vx : Byte) : Word := BitVec.ofNat 16 ((i.toNat + vx.toNat) % 4096)

/-- The decimal digits of a byte: hundreds, tens, ones (R193). -/
def bcdDigits (vx : Byte) : List Byte :=
  [BitVec.ofNat 8 (vx.toNat / 100), BitVec.ofNat 8 (vx.toNat / 10 % 10), BitVec.ofNat 8 (vx.toNat % 10)]

/-- The answer of the random source to the question being asked now (R42). -/
def State.randomByte (s : State) : Byte := Config.randomByte s.randomDraws

/-- The answer of the key query being asked now, about the key `V[x]` selects (R40, R233). -/
def State.keyAnswer (s : State) (x : RegIdx) : Bool := Config.keyPressed s.keyQueries (s.keyOf x)

end Sys2Proof.Machine
end

