-- ==== Sys2Proof/Machine/Agents.lean ====
section
/-! DEFINITION. What is not an instruction: the fetch (spec 40_cycle_and_dispatch.md R124), the timer engine
(60_exceptions.md R265), the key event (45_keys_and_timer_access.md R235), the snapshot (10_state.md R46), and where a word
is placed so that the next step fetches it. -/

namespace Sys2Proof.Machine

/-- The highest address an instruction can be fetched from (R66, R124). -/
def lastFetch : Nat := 0xFFE

/-- The word at an address, high byte first (R63). -/
def Memory.readWord (m : Memory) (a : Nat) : Word := wordOfBytes (m.read a) (m.read (a + 1))

/-- The fetch of R124; `none` when `PC > 0xFFE`. -/
def State.fetch (s : State) : Option Word :=
  if s.pc.toNat ≤ lastFetch then some (s.mem.readWord s.pc.toNat) else none

/-- A timer at a tick: down by one, and it stays at zero (R265). -/
def countDown (t : Byte) : Byte := if t = 0 then 0 else t - 1

/-- The tick step (R265), in every run state. -/
def State.tickStep (s : State) : State := (s.setDt (countDown s.dt)).setSt (countDown s.st)

/-- The key event step (R235): completes a wait, is dropped otherwise. -/
def State.keyStep (s : State) (k : Key) : State :=
  match s.run with
  | .awaitingKey r => ((s.writeV r (k.setWidth 8)).advance).setRun .running
  | .running => s
  | .halted => s

/-- What the host can read between two steps (R46). -/
structure Snapshot where
  fb    : Framebuffer
  v     : Vector Byte 16
  i     : Word
  pc    : Word
  sp    : Fin 17
  stack : List Word
  dt    : Byte
  st    : Byte
  run   : RunState
  err   : ErrorRecord
deriving DecidableEq, Repr

/-- The stack entries in use, `STK[0..SP-1]`, oldest first (R26). -/
def State.liveStack (s : State) : List Word := s.stk.toList.take s.sp.val

/-- The snapshot of a state (R46): of the stack only the entries in use. -/
def State.snapshot (s : State) : Snapshot :=
  { fb := s.fb, v := s.v, i := s.i, pc := s.pc, sp := s.sp, stack := s.liveStack,
    dt := s.dt, st := s.st, run := s.run, err := s.err }

/-- A word placed where the next instruction step fetches it: at `PC`, high byte first, in a core that runs and has no host
input before its next step. A `PC` no fetch can use is first set to 0x200. Log 26. -/
def State.placeWord (s : State) (op : Word) : State :=
  let pc := if s.pc.toNat ≤ lastFetch then s.pc else 0x200
  (((s.setPc pc).setRun .running).setHostInputs []).setMem
    ((s.mem.write pc.toNat (highByte op)).write (pc.toNat + 1) (lowByte op))

end Sys2Proof.Machine
end

