-- ==== Sys2Proof/Machine/Flags.lean ====
section
/-! DEFINITION. Every value written to VF as a flag (spec 10_state.md R22, 42_register_alu.md R161). -/

namespace Sys2Proof.Machine

/-- A flag write stores 0x00 or 0x01 (R22, R161). -/
def flagByte (b : Bool) : Byte := if b then 1 else 0

/-- Carry of `8xy4`: the true sum exceeds 255 (R168). -/
def carryOf (vx vy : Byte) : Bool := decide (255 < vx.toNat + vy.toNat)

/-- No borrow of `minuend - subtrahend` (R161, R169, R171). -/
def noBorrow (minuend subtrahend : Byte) : Bool := decide (subtrahend.toNat ≤ minuend.toNat)

/-- The bit `8xy6` shifts out: bit 0 (R170). -/
def shiftedOutRight (vx : Byte) : Bool := vx.getLsbD 0

/-- The bit `8xyE` shifts out: bit 7 (R172). -/
def shiftedOutLeft (vx : Byte) : Bool := vx.getLsbD 7

/-- Flag first, result second, then `PC + 2` (R128, R161): with `x = F` the result is what stays. -/
def State.writeFlagged (s : State) (x : RegIdx) (flag : Bool) (result : Byte) : State :=
  ((s.writeV flagReg (flagByte flag)).writeV x result).advance

end Sys2Proof.Machine
end

