-- ==== Sys2Proof/Machine/Alu.lean ====
section
/-! DEFINITION. Register loads, arithmetic, logic, shifts and random (spec 42_register_alu.md). Every one ends with
`PC + 2` and raises nothing. -/

namespace Sys2Proof.Machine

/-- `6xnn` (R162). -/
def execLdb (x : RegIdx) (nn : Byte) (s : State) : Result := .next (s.writeV x nn).advance

/-- `7xnn` (R163): no flag. -/
def execAddb (x : RegIdx) (nn : Byte) (s : State) : Result := .next (s.writeV x (s.readV x + nn)).advance

/-- `8xy0` (R164). -/
def execMov (x y : RegIdx) (s : State) : Result := .next (s.writeV x (s.readV y)).advance

/-- `8xy1` (R165): VF is not touched. -/
def execOr (x y : RegIdx) (s : State) : Result := .next (s.writeV x (s.readV x ||| s.readV y)).advance

/-- `8xy2` (R166): VF is not touched. -/
def execAnd (x y : RegIdx) (s : State) : Result := .next (s.writeV x (s.readV x &&& s.readV y)).advance

/-- `8xy3` (R167): VF is not touched. -/
def execXor (x y : RegIdx) (s : State) : Result := .next (s.writeV x (s.readV x ^^^ s.readV y)).advance

/-- `8xy4` (R168). -/
def execAdd (x y : RegIdx) (s : State) : Result :=
  .next (s.writeFlagged x (carryOf (s.readV x) (s.readV y)) (s.readV x + s.readV y))

/-- `8xy5` (R169). -/
def execSub (x y : RegIdx) (s : State) : Result :=
  .next (s.writeFlagged x (noBorrow (s.readV x) (s.readV y)) (s.readV x - s.readV y))

/-- `8xy6` (R170): `y` is ignored. -/
def execShr (x _y : RegIdx) (s : State) : Result :=
  .next (s.writeFlagged x (shiftedOutRight (s.readV x)) (s.readV x >>> 1))

/-- `8xy7` (R171). -/
def execSubn (x y : RegIdx) (s : State) : Result :=
  .next (s.writeFlagged x (noBorrow (s.readV y) (s.readV x)) (s.readV y - s.readV x))

/-- `8xyE` (R172): `y` is ignored. -/
def execShl (x _y : RegIdx) (s : State) : Result :=
  .next (s.writeFlagged x (shiftedOutLeft (s.readV x)) (s.readV x <<< 1))

/-- `Cxnn` (R173): one random byte, all of `nn`. -/
def execRnd (x : RegIdx) (nn : Byte) (s : State) : Result :=
  .next (s.countRandomDraw.writeV x (s.randomByte &&& nn)).advance

end Sys2Proof.Machine
end

