-- ==== Sys2Proof/Machine/Display.lean ====
section
/-! DEFINITION. Clear screen and the sprite XOR-blit unit (spec 44_display.md). -/

namespace Sys2Proof.Machine

/-- The cell a sprite's row `r`, column `c` is drawn on (R211): every pixel wraps at both edges. -/
def spriteCell (vx vy : Byte) (r c : Nat) : Nat := (vx.toNat + c) % 64 + 64 * ((vy.toNat + r) % 32)

/-- Column `c` of a row byte, the most significant bit leftmost (R211). -/
def spriteBit (b : Byte) (c : Nat) : Bool := b.getLsbD (7 - c)

/-- The framebuffer and the collision flag while a sprite is drawn. -/
structure Blit where
  fb  : Framebuffer
  hit : Bool
deriving DecidableEq, Repr

/-- The innermost step of R212: a set bit flips its cell, and collides if the cell was on. -/
def blitPixel (vx vy : Byte) (r : Nat) (b : Byte) (acc : Blit) (c : Nat) : Blit :=
  if spriteBit b c then
    { fb := acc.fb.toggle (spriteCell vx vy r c), hit := acc.hit || acc.fb.pixel (spriteCell vx vy r c) }
  else acc

/-- One row of R212: columns 0 to 7. -/
def blitRow (vx vy : Byte) (r : Nat) (b : Byte) (acc : Blit) : Blit :=
  (List.range 8).foldl (blitPixel vx vy r b) acc

/-- The rows of R212, from row `r` on. -/
def blitRows (vx vy : Byte) (r : Nat) : List Byte → Blit → Blit
  | [], acc => acc
  | b :: bs, acc => blitRows vx vy (r + 1) bs (blitRow vx vy r b acc)

/-- A whole sprite drawn on a framebuffer, the collision flag cleared before it (R212). -/
def drawSprite (vx vy : Byte) (rows : List Byte) (fb : Framebuffer) : Blit :=
  blitRows vx vy 0 rows { fb := fb, hit := false }

/-- `00E0` (R210): VF is not written. -/
def execCls (s : State) : Result := .next (s.setFb Framebuffer.blank).advance

/-- The sprite `Dxyn` draws at this state: rows, coordinates and framebuffer as they are before VF is cleared (R128, R216). -/
def State.drawn (s : State) (x y : RegIdx) (n : Nibble) : Blit :=
  drawSprite (s.readV x) (s.readV y) (s.mem.readRun s.base n.toNat) s.fb

/-- `Dxyn` (R212). With `n = 0` no byte is read, no range is checked and VF becomes 0 (R214). -/
def execDrw (x y : RegIdx) (n : Nibble) (s : State) : Result :=
  if outOfRange s.base n.toNat then .next (s.raiseError .outOfRange (some (encode (.drw x y n))) (some s.i))
  else .next ((s.setFb (s.drawn x y n).fb).writeV flagReg (flagByte (s.drawn x y n).hit)).advance

end Sys2Proof.Machine
end

