-- ==== Sys2Proof/Machine/Flow.lean ====
section
/-! DEFINITION. Control transfer and skips (spec 41_flow_and_stack.md). Operands are start-of-step values (R128). -/

namespace Sys2Proof.Machine

/-- `00EE` (R144). -/
def execRet (s : State) : Result :=
  match s.pop with
  | none => .next (s.raiseError .stackUnderflow (some (encode .ret)) none)
  | some (target, t) => .next (t.setPc target)

/-- `1nnn` (R146). -/
def execJp (nnn : Addr12) (s : State) : Result := .next (s.setPc (addrOf nnn))

/-- `2nnn` (R147): the pushed value is `PC + 2`. -/
def execCall (nnn : Addr12) (s : State) : Result :=
  match s.push (s.pc + 2) with
  | none => .next (s.raiseError .stackOverflow (some (encode (.call nnn))) none)
  | some t => .next (t.setPc (addrOf nnn))

/-- `Bnnn` (R145): always `V[0]`; the sum is not reduced modulo 4096. -/
def execJpv0 (nnn : Addr12) (s : State) : Result := .next (s.setPc (zext16 (s.readV 0) + addrOf nnn))

/-- `3xnn` (R148). -/
def execSe (x : RegIdx) (nn : Byte) (s : State) : Result := .next (s.skipIf (s.readV x == nn))

/-- `4xnn` (R149). -/
def execSne (x : RegIdx) (nn : Byte) (s : State) : Result := .next (s.skipIf (s.readV x != nn))

/-- `5xy0` (R150). -/
def execSer (x y : RegIdx) (s : State) : Result := .next (s.skipIf (s.readV x == s.readV y))

/-- `9xy0` (R151). -/
def execSner (x y : RegIdx) (s : State) : Result := .next (s.skipIf (s.readV x != s.readV y))

end Sys2Proof.Machine
end

