-- ==== Sys2Proof/Machine/IndexMemory.lean ====
section
/-! DEFINITION. The index register, BCD, register block store and load (spec 43_index_and_memory.md). `I` is changed by no
access (R197); a range that reaches past 0xFFF raises `OutOfRange` before anything is written (R129). -/

namespace Sys2Proof.Machine

/-- `Annn` (R190). -/
def execLdix (nnn : Addr12) (s : State) : Result := .next (s.setI (addrOf nnn)).advance

/-- `Fx1E` (R191): wraps silently, VF not written. -/
def execAddix (x : RegIdx) (s : State) : Result := .next (s.setI (indexSum s.i (s.readV x))).advance

/-- `Fx29` (R192). -/
def execFont (x : RegIdx) (s : State) : Result := .next (s.setI (glyphAddress (s.readV x))).advance

/-- `Fx33` (R193). -/
def execBcd (x : RegIdx) (s : State) : Result :=
  if outOfRange s.base 3 then .next (s.raiseError .outOfRange (some (encode (.bcd x))) (some s.i))
  else .next (s.setMem (s.mem.writeRun s.base (bcdDigits (s.readV x)))).advance

/-- `Fx55` (R194). -/
def execStm (x : RegIdx) (s : State) : Result :=
  if outOfRange s.base (runLength x) then .next (s.raiseError .outOfRange (some (encode (.stm x))) (some s.i))
  else .next (s.setMem (s.mem.writeRun s.base (s.readRegs x))).advance

/-- `Fx65` (R195). -/
def execLdm (x : RegIdx) (s : State) : Result :=
  if outOfRange s.base (runLength x) then .next (s.raiseError .outOfRange (some (encode (.ldm x))) (some s.i))
  else .next (s.writeRegs 0 (s.mem.readRun s.base (runLength x))).advance

end Sys2Proof.Machine
end

