-- ==== Sys2Proof/Machine/KeysTimers.lean ====
section
/-! DEFINITION. Key skips, key wait and timer access (spec 45_keys_and_timer_access.md). -/

namespace Sys2Proof.Machine

/-- `Ex9E` (R230): skips when the key is pressed; one query. -/
def execSkp (x : RegIdx) (s : State) : Result := .next (s.countKeyQuery.skipIf (s.keyAnswer x))

/-- `ExA1` (R231): skips when the key is not pressed; one query. -/
def execSknp (x : RegIdx) (s : State) : Result := .next (s.countKeyQuery.skipIf (!s.keyAnswer x))

/-- `Fx07` (R232). -/
def execGetdt (x : RegIdx) (s : State) : Result := .next (s.writeV x s.dt).advance

/-- `Fx0A` (R234): only records the wait; `PC` and `V` are unchanged. -/
def execWaitk (x : RegIdx) (s : State) : Result := .next (s.setRun (.awaitingKey x))

/-- `Fx15` (R236). -/
def execSetdt (x : RegIdx) (s : State) : Result := .next (s.setDt (s.readV x)).advance

/-- `Fx18` (R237). -/
def execSetst (x : RegIdx) (s : State) : Result := .next (s.setSt (s.readV x)).advance

end Sys2Proof.Machine
end

