-- ==== Sys2Proof/Machine/Cycle.lean ====
section
/-! DEFINITION. The whole step (spec 40_cycle_and_dispatch.md R120 to R131): the instruction step, and which agent moves. -/

namespace Sys2Proof.Machine

/-- What a fetched word does (R125, R126, R131): its instruction, or the outcome of `Unknown`. -/
def runWord (op : Word) (s : State) : Result :=
  match decodeWord op with
  | .known i => exec i s
  | .unknown w => .next (s.takeUnknown Config.unknownPolicy w)

/-- The instruction step of R131; in `AwaitingKey` and `Halted` a step request does nothing and fetches nothing (R121). -/
def instructionStep (s : State) : Result :=
  match s.run with
  | .running =>
    match s.fetch with
    | none => .next (s.raiseError .outOfRange none (some s.pc))
    | some op => runWord op s
  | .awaitingKey _ => .next s
  | .halted => .next s

/-- One step of the system (R120, R122, R123): the next thing the host delivers; when nothing is queued, a step request. -/
def cycle (s : State) : Result :=
  match s.hostInputs with
  | [] => instructionStep s
  | .stepRequest :: rest => instructionStep (s.setHostInputs rest)
  | .tick :: rest => .next (s.setHostInputs rest).tickStep
  | .keyEvent k :: rest => .next ((s.setHostInputs rest).keyStep k)
  | .reset program :: rest => .next ((s.setHostInputs rest).hostReset program)

end Sys2Proof.Machine
end

