-- ==== Sys2Proof/Machine/Step.lean ====
section
/-! DEFINITION. One step of the system, and the placing of an instruction where it is fetched. -/

namespace Sys2Proof.Machine

/-- One atomic step (R122). -/
def step (s : State) : Host.Outcome State Fault Refusal := cycle s

/-- `s` with an instruction whose bits are `w` placed where `step` fetches its next instruction. -/
def State.withFetchWord (s : State) (nbits w : Nat) : State := s.placeWord (tableWord nbits w)

end Sys2Proof.Machine
end

