-- ==== Sys2Proof/Safety.lean ====
section
/-! DEFINITION. What counts as a safe run, in the terms the statements use: the pieces of state and what it means that one is
unchanged, what an instruction writes (spec 10_state.md R35), what it stores to, when it raises (60_exceptions.md R250), the
obligations of a well-formed program (70_reset_and_hazards.md R298), and the invariant of R37. -/

namespace Sys2Proof.Machine

/-! ## Unchanged state -/

/-- The pieces of State. -/
inductive Piece where
  | v | i | pc | stack | dt | st | mem | fb | run | err | hostInputs | randomDraws | keyQueries
deriving DecidableEq, Repr

/-- A piece is the same in two states: registers one by one, memory byte by byte, the framebuffer cell by cell. -/
def Same (s t : State) : Piece → Prop
  | .v => ∀ r, t.readV r = s.readV r
  | .i => t.i = s.i
  | .pc => t.pc = s.pc
  | .stack => t.sp = s.sp ∧ t.stk = s.stk
  | .dt => t.dt = s.dt
  | .st => t.st = s.st
  | .mem => ∀ a, t.readByte a = s.readByte a
  | .fb => ∀ p, t.pixel p = s.pixel p
  | .run => t.run = s.run
  | .err => t.err = s.err
  | .hostInputs => t.hostInputs = s.hostInputs
  | .randomDraws => t.randomDraws = s.randomDraws
  | .keyQueries => t.keyQueries = s.keyQueries

/-- Every piece outside the list is the same. -/
def UnchangedExcept (pieces : List Piece) (s t : State) : Prop := ∀ q, q ∉ pieces → Same s t q

/-- Every register but `x` is the same. -/
def SameRegsBut (x : RegIdx) (s t : State) : Prop := ∀ r, r ≠ x → t.readV r = s.readV r

/-- `V[x] <- b; PC <- PC + 2` and nothing else. -/
def RegWritten (s t : State) (x : RegIdx) (b : Byte) : Prop :=
  t.readV x = b ∧ SameRegsBut x s t ∧ t.pc = s.pc + 2 ∧ UnchangedExcept [.v, .pc] s t

/-- `V[F] <- f; V[x] <- b; PC <- PC + 2` with `x` not F, and nothing else. -/
def RegAndFlagWritten (s t : State) (x : RegIdx) (b f : Byte) : Prop :=
  t.readV x = b ∧ t.readV flagReg = f ∧ (∀ r, r ≠ x → r ≠ flagReg → t.readV r = s.readV r) ∧
    t.pc = s.pc + 2 ∧ UnchangedExcept [.v, .pc] s t

/-- `PC <- a` and nothing else. -/
def PcWritten (s t : State) (a : Word) : Prop := t.pc = a ∧ UnchangedExcept [.pc] s t

/-- `raise` of a fatal error: this record, `RUN = Halted`, and nothing else (R11, R257). -/
def Raised (s t : State) (e : ErrorRecord) : Prop :=
  t.err = e ∧ t.run = .halted ∧ UnchangedExcept [.err, .run] s t

/-- The next step of `s` is an instruction step that begins in `s0`: nothing is queued, or a step request is next (R44). -/
def StepRequested (s s0 : State) : Prop :=
  (s.hostInputs = [] ∧ s0 = s) ∨ ∃ rest, s.hostInputs = .stepRequest :: rest ∧ s0 = s.setHostInputs rest

/-- The two bytes at `PC` are the word `op`, high byte first (R63, R124). -/
def FetchedWord (s : State) (op : Word) : Prop :=
  s.pc.toNat ≤ 0xFFE ∧
    op.toNat = 256 * (s.readByte s.pc.toNat).toNat + (s.readByte (s.pc.toNat + 1)).toNat

/-! ## What an instruction may do -/

/-- The pieces an instruction writes when it raises nothing (R35). -/
def writesOf : Instr → List Piece
  | .cls => [.fb, .pc]
  | .ret | .call _ => [.stack, .pc]
  | .jp _ | .jpv0 _ | .se _ _ | .sne _ _ | .ser _ _ | .sner _ _ => [.pc]
  | .ldb _ _ | .addb _ _ | .mov _ _ | .or _ _ | .and _ _ | .xor _ _ | .add _ _ | .sub _ _ | .shr _ _ | .subn _ _
  | .shl _ _ | .getdt _ | .ldm _ => [.v, .pc]
  | .rnd _ _ => [.v, .pc, .randomDraws]
  | .ldix _ | .addix _ | .font _ => [.i, .pc]
  | .drw _ _ _ => [.fb, .v, .pc]
  | .skp _ | .sknp _ => [.pc, .keyQueries]
  | .waitk _ => [.run]
  | .setdt _ => [.dt, .pc]
  | .setst _ => [.st, .pc]
  | .bcd _ | .stm _ => [.mem, .pc]

/-- The instructions that write VF as a flag (R22). -/
def writesFlag : Instr → Bool
  | .add _ _ | .sub _ _ | .shr _ _ | .subn _ _ | .shl _ _ | .drw _ _ _ => true
  | .cls | .ret | .jp _ | .call _ | .se _ _ | .sne _ _ | .ser _ _ | .ldb _ _ | .addb _ _ | .mov _ _ | .or _ _
  | .and _ _ | .xor _ _ | .sner _ _ | .ldix _ | .jpv0 _ | .rnd _ _ | .skp _ | .sknp _ | .getdt _ | .waitk _
  | .setdt _ | .setst _ | .addix _ | .font _ | .bcd _ | .stm _ | .ldm _ => false

/-- An instruction names register `r` as a destination (R35; WAITK when its wait completes). -/
def namesAsDestination (r : RegIdx) : Instr → Bool
  | .ldb x _ | .addb x _ | .rnd x _ => x == r
  | .mov x _ | .or x _ | .and x _ | .xor x _ | .add x _ | .sub x _ | .shr x _ | .subn x _ | .shl x _ => x == r
  | .getdt x | .waitk x => x == r
  | .ldm x => decide (r.toNat ≤ x.toNat)
  | .cls | .ret | .jp _ | .call _ | .se _ _ | .sne _ _ | .ser _ _ | .sner _ _ | .ldix _ | .jpv0 _ | .drw _ _ _
  | .skp _ | .sknp _ | .setdt _ | .setst _ | .addix _ | .font _ | .bcd _ | .stm _ => false

/-- How many bytes of memory from `I` on an instruction accesses (R64, R66). -/
def dataLength : Instr → Nat
  | .drw _ _ n => n.toNat
  | .bcd _ => 3
  | .stm x | .ldm x => runLength x
  | .cls | .ret | .jp _ | .call _ | .se _ _ | .sne _ _ | .ser _ _ | .ldb _ _ | .addb _ _ | .mov _ _ | .or _ _
  | .and _ _ | .xor _ _ | .add _ _ | .sub _ _ | .shr _ _ | .subn _ _ | .shl _ _ | .sner _ _ | .ldix _ | .jpv0 _
  | .rnd _ _ | .skp _ | .sknp _ | .getdt _ | .waitk _ | .setdt _ | .setst _ | .addix _ | .font _ => 0

/-- How many bytes from `I` on an instruction stores (R193, R194). -/
def storeLength : Instr → Nat
  | .bcd _ => 3
  | .stm x => runLength x
  | .cls | .ret | .jp _ | .call _ | .se _ _ | .sne _ _ | .ser _ _ | .ldb _ _ | .addb _ _ | .mov _ _ | .or _ _
  | .and _ _ | .xor _ _ | .add _ _ | .sub _ _ | .shr _ _ | .subn _ _ | .shl _ _ | .sner _ _ | .ldix _ | .jpv0 _
  | .rnd _ _ | .drw _ _ _ | .skp _ | .sknp _ | .getdt _ | .waitk _ | .setdt _ | .setst _ | .addix _ | .font _
  | .ldm _ => 0

/-- The instruction stores to this address (R193, R194). -/
def storesTo (i : Instr) (s : State) (a : Nat) : Bool := decide (s.base ≤ a) && decide (a < s.base + storeLength i)

/-- The error an instruction raises at a state, if it raises one (R250, R259: at most one fault condition each). -/
def raises (i : Instr) (s : State) : Option ErrorKind :=
  match i with
  | .ret => if s.sp = 0 then some .stackUnderflow else none
  | .call _ => if s.sp = 16 then some .stackOverflow else none
  | .drw _ _ _ | .bcd _ | .stm _ | .ldm _ =>
    if 0 < dataLength i ∧ 0xFFF < s.base + dataLength i - 1 then some .outOfRange else none
  | .cls | .jp _ | .se _ _ | .sne _ _ | .ser _ _ | .ldb _ _ | .addb _ _ | .mov _ _ | .or _ _ | .and _ _ | .xor _ _
  | .add _ _ | .sub _ _ | .shr _ _ | .subn _ _ | .shl _ _ | .sner _ _ | .ldix _ | .jpv0 _ | .rnd _ _ | .skp _
  | .sknp _ | .getdt _ | .waitk _ | .setdt _ | .setst _ | .addix _ | .font _ => none

/-- The instructions that may leave `PC` odd although it was even (R65). -/
def jumps : Instr → Bool
  | .ret | .jp _ | .call _ | .jpv0 _ => true
  | .cls | .se _ _ | .sne _ _ | .ser _ _ | .ldb _ _ | .addb _ _ | .mov _ _ | .or _ _ | .and _ _ | .xor _ _
  | .add _ _ | .sub _ _ | .shr _ _ | .subn _ _ | .shl _ _ | .sner _ _ | .ldix _ | .rnd _ _ | .drw _ _ _ | .skp _
  | .sknp _ | .getdt _ | .waitk _ | .setdt _ | .setst _ | .addix _ | .font _ | .bcd _ | .stm _ | .ldm _ => false

/-! ## The obligations of a well-formed program (R298): the hardware checks none of them -/

/-- `PC` is even. -/
def pcEven (s : State) : Bool := s.pc.toNat % 2 == 0

/-- No store touches an address below 0x200. -/
def storesAboveBase (i : Instr) (s : State) : Bool := storeLength i == 0 || decide (Config.progBase ≤ s.base)

/-- A form of a flag-writing instruction that names VF as an operand its rule uses (R174, R216, U6). The `y` of the two
shifts is not used (R170, R172), so it does not count. -/
def flagWriterNamesVF : Instr → Bool
  | .add x y | .sub x y | .subn x y | .drw x y _ => x == flagReg || y == flagReg
  | .shr x _ | .shl x _ => x == flagReg
  | .cls | .ret | .jp _ | .call _ | .se _ _ | .sne _ _ | .ser _ _ | .ldb _ _ | .addb _ _ | .mov _ _ | .or _ _
  | .and _ _ | .xor _ _ | .sner _ _ | .ldix _ | .jpv0 _ | .rnd _ _ | .skp _ | .sknp _ | .getdt _ | .waitk _
  | .setdt _ | .setst _ | .addix _ | .font _ | .bcd _ | .stm _ | .ldm _ => false

/-- VF is not used as general storage: it is no named destination (R22), and no flag-writing instruction names it as an
operand (R174, U6). Reading the flag, as a skip or a move out of VF does, is allowed (R22). -/
def vfNotStorage (i : Instr) : Bool := !namesAsDestination flagReg i && !flagWriterNamesVF i

/-- `V[x]` is a hex digit where a glyph or a key is selected by it. -/
def digitOperand (i : Instr) (s : State) : Bool :=
  match i with
  | .skp x | .sknp x | .font x => decide ((s.readV x).toNat < 16)
  | .cls | .ret | .jp _ | .call _ | .se _ _ | .sne _ _ | .ser _ _ | .ldb _ _ | .addb _ _ | .mov _ _ | .or _ _
  | .and _ _ | .xor _ _ | .add _ _ | .sub _ _ | .shr _ _ | .subn _ _ | .shl _ _ | .sner _ _ | .ldix _ | .jpv0 _
  | .rnd _ _ | .drw _ _ _ | .getdt _ | .waitk _ | .setdt _ | .setst _ | .addix _ | .bcd _ | .stm _ | .ldm _ => true

/-- A well-formed program may execute this instruction here (R298); that the instruction is known at all is
`stepObligations`. -/
def programObligations (i : Instr) (s : State) : Bool :=
  pcEven s && storesAboveBase i s && vfNotStorage i && digitOperand i s && (raises i s).isNone

/-- A well-formed program may take its next instruction step here (R298): the fetch stays within memory, the word is one of
the 34 known opcodes, and its instruction meets its own obligations. -/
def stepObligations (s : State) : Bool :=
  match s.fetch with
  | none => false
  | some op =>
    match decodeWord op with
    | .known i => programObligations i s
    | .unknown _ => false

/-- A run is safe as long as it has not halted: a halted run is never a finished program (R260). -/
def Safe (s : State) : Prop := s.run ≠ .halted

/-! ## The invariant of R37 -/

/-- The kinds that halt the core; `UnknownOpcode` does under the strict policy only (R250). -/
def fatalKind : ErrorKind → Bool
  | .none => false
  | .loadError | .stackOverflow | .stackUnderflow | .outOfRange => true
  | .unknownOpcode => Config.unknownPolicy == .strict

/-- What holds in every reachable state (R37), with what its preservation needs: a waiting core has `PC <= 0xFFE`, memory is
in canonical form, and the fields of `ERR` that are not valid read zero (R32). -/
structure Inv (s : State) : Prop where
  index   : s.i.toNat ≤ 0xFFF
  counter : s.pc.toNat ≤ 0x10FE
  returns : ∀ (k : Nat) (h : k < s.sp.val), (s.stk[k]'(by omega)).toNat ≤ 0x1000
  waiting : ∀ r, s.run = .awaitingKey r → s.pc.toNat ≤ 0xFFE
  halted  : s.run = .halted → fatalKind s.err.kind = true
  opcode  : s.err.opcodeValid = false → s.err.opcode = 0
  address : s.err.addrValid = (s.err.kind == .outOfRange) ∧ (s.err.addrValid = false → s.err.addr = 0)
  memory  : s.mem.wf = true

/-- Two states that differ at most in stack entries at and above `SP`, which no rule reads (R26, R46). -/
structure SameButDeadStack (s t : State) : Prop where
  v           : s.v = t.v
  i           : s.i = t.i
  pc          : s.pc = t.pc
  sp          : s.sp = t.sp
  live        : s.liveStack = t.liveStack
  dt          : s.dt = t.dt
  st          : s.st = t.st
  mem         : s.mem = t.mem
  fb          : s.fb = t.fb
  run         : s.run = t.run
  err         : s.err = t.err
  hostInputs  : s.hostInputs = t.hostInputs
  randomDraws : s.randomDraws = t.randomDraws
  keyQueries  : s.keyQueries = t.keyQueries

end Sys2Proof.Machine
end

