-- ==== Sys2Proof/Certificates/Slice0/Obligations.lean ====
section
/-! DEFINITION. The statements about the machine, family by family. A docstring names the rules of spec/ a statement
formalises; where a statement rests on a decision the spec marks as its own, or on a choice of this model, it says so and
names the decision (D<n>) or the log entry. -/

open Sys2Proof Sys2Proof.Machine

/-! ## Encoding (30_encoding.md) -/

/-- A few words, written out from the patterns of R96, and what they stand for; three unknown words of R99. -/
def Obligations.SampleWordsDecode : Prop :=
  decodeWord 0x00E0 = .known .cls ∧ decodeWord 0x1ABC = .known (.jp 0xABC) ∧ decodeWord 0x8127 = .known (.subn 1 2) ∧
  decodeWord 0xC30F = .known (.rnd 3 0x0F) ∧ decodeWord 0xF255 = .known (.stm 2) ∧ decodeWord 0xD125 = .known (.drw 1 2 5) ∧
  decodeWord 0xE29E = .known (.skp 2) ∧ decodeWord 0x0000 = .unknown 0x0000 ∧ decodeWord 0x5121 = .unknown 0x5121 ∧
  decodeWord 0x8128 = .unknown 0x8128

/-- R105 (derived by the spec from R96, R97): the decoder reads back every encoded instruction, all operands at all values. -/
def Obligations.DecodeOfEncodeIsTheInstruction : Prop :=
  ∀ i : Instr, decodeWord (encode i) = .known i

/-- R105: a known word is the encoding of what it decodes to (`SHR` and `SHL` keep `y` here, as R105 allows). -/
def Obligations.EncodeOfDecodeIsTheWord : Prop :=
  ∀ (op : Word) (i : Instr), decodeWord op = .known i → encode i = op

/-- R96: a word is an instruction if and only if `(op and mask) = match` for its row; no two rows match the same word. The
map `opcodeTable` is R96's table without its last three columns. -/
def Obligations.DecoderAgreesWithOpcodeMap : Prop :=
  (∀ (op : Word) (row : OpcodeRow), row ∈ opcodeTable →
    (op &&& row.mask = row.value ↔ ∃ i, decodeWord op = .known i ∧ i.mnemonic = row.mnemonic)) ∧
  ∀ (op : Word) (r1 r2 : OpcodeRow), r1 ∈ opcodeTable → r2 ∈ opcodeTable →
    op &&& r1.mask = r1.value → op &&& r2.mask = r2.value → r1 = r2

/-- R99, R94: exactly the words no row of R96 matches decode to `Unknown`, which carries the word. -/
def Obligations.UnmatchedWordsAreUnknown : Prop :=
  ∀ op op' : Word, decodeWord op = .unknown op' ↔
    op' = op ∧ ∀ row, row ∈ opcodeTable → op &&& row.mask ≠ row.value

/-! ## The step (40_cycle_and_dispatch.md) -/

/-- R124 to R126, R131, with R63's byte order: a requested step of a running core is `exec` of the instruction its two bytes
decode to. What surrounds `exec` is the model's own list of host inputs (log 7): a queued request is taken off it. -/
def Obligations.StepRunsTheDecodedInstruction : Prop :=
  ∀ (s s0 : State) (op : Word) (i : Instr), StepRequested s s0 → s.run = .running → FetchedWord s op →
    decodeWord op = .known i → step s = exec i s0

/-- R124 with the record of R254 and R256 (decisions D15, D17, D32, logs 20, 21): a fetch with `PC > 0xFFE` raises
`OutOfRange(PC)`, has no opcode, and changes nothing else. -/
def Obligations.FetchAboveMemoryRaises : Prop :=
  ∀ s s0 : State, StepRequested s s0 → s.run = .running → 0xFFE < s.pc.toNat →
    ∃ t, step s = .next t ∧
      Raised s0 t { kind := .outOfRange, pc := s.pc, opcodeValid := false, opcode := 0, addrValid := true, addr := s.pc }

/-- R258 (decision D19): what an unknown word does under each policy; the machine follows its open parameter. -/
def Obligations.UnknownWordOutcome : Prop :=
  (∀ (s s0 : State) (op : Word), StepRequested s s0 → s.run = .running → FetchedWord s op → decodeWord op = .unknown op →
    step s = .next (s0.takeUnknown Config.unknownPolicy op)) ∧
  (∀ (s : State) (op : Word), Raised s (s.takeUnknown .strict op)
    { kind := .unknownOpcode, pc := s.pc, opcodeValid := true, opcode := op, addrValid := false, addr := 0 }) ∧
  ∀ (s : State) (op : Word),
    (s.takeUnknown .permissive op).err =
      { kind := .unknownOpcode, pc := s.pc, opcodeValid := true, opcode := op, addrValid := false, addr := 0 } ∧
    (s.takeUnknown .permissive op).pc = s.pc + 2 ∧ UnchangedExcept [.err, .pc] s (s.takeUnknown .permissive op)

/-- R121: in `AwaitingKey` and in `Halted` a step request does nothing; a key event lifts `AwaitingKey`; nothing but a reset
lifts `Halted`; ticks go on in both. That such a request answers the same state as a next state, where U17 has no step, is the
model's choice (log 8); that only a reset lifts `Halted` is decision D30 (log 8), that ticks go on in `Halted` decision D20
(log 23). -/
def Obligations.NoStepWhileWaitingOrHalted : Prop :=
  (∀ s s0 : State, StepRequested s s0 → s.run ≠ .running → step s = .next s0) ∧
  (∀ (s : State) (r : RegIdx) (k : Key) (rest : List HostInput), s.run = .awaitingKey r →
    s.hostInputs = .keyEvent k :: rest → ∃ t, step s = .next t ∧ t.run = .running) ∧
  (∀ (s : State) (e : HostInput) (rest : List HostInput), s.run = .halted → s.hostInputs = e :: rest →
    (∀ program, e ≠ .reset program) → ∃ t, step s = .next t ∧ t.run = .halted) ∧
  (∀ (s : State) (program : List Byte) (rest : List HostInput), s.run = .halted →
    s.hostInputs = .reset program :: rest → program.length ≤ 3584 → ∃ t, step s = .next t ∧ t.run = .running) ∧
  ∀ (s : State) (rest : List HostInput), s.run ≠ .running → s.hostInputs = .tick :: rest →
    step s = .next (s.setHostInputs rest).tickStep

/-- R259, R126: every step of every state answers a next state. Each error the spec names is an entry it describes (log 9);
that a step in `AwaitingKey` or `Halted` answers a next state, where R121 has no step and U17 is stuck, is the model's choice
(log 8). -/
def Obligations.EveryStepAnswersANextState : Prop :=
  ∀ s : State, ∃ t, step s = .next t

/-! ## Ticks, key events, reset (60_exceptions.md, 45_keys_and_timer_access.md, 70_reset_and_hazards.md) -/

/-- R265 (decision D4, D20): a tick counts both timers down, a timer at zero stays at zero, in every run state. -/
def Obligations.TickCountsBothTimersDown : Prop :=
  ∀ (s : State) (rest : List HostInput), s.hostInputs = .tick :: rest →
    ∃ t, step s = .next t ∧ t.dt.toNat = s.dt.toNat - 1 ∧ t.st.toNat = s.st.toNat - 1 ∧ t.hostInputs = rest ∧
      UnchangedExcept [.dt, .st, .hostInputs] s t

/-- R235 (decision D21): a key event completes a wait; outside a wait it is dropped. -/
def Obligations.KeyEventStep : Prop :=
  (∀ (s : State) (r : RegIdx) (k : Key) (rest : List HostInput), s.run = .awaitingKey r →
    s.hostInputs = .keyEvent k :: rest →
    ∃ t, step s = .next t ∧ t.readV r = BitVec.ofNat 8 k.toNat ∧ SameRegsBut r s t ∧ t.pc = s.pc + 2 ∧
      t.run = .running ∧ t.hostInputs = rest ∧ UnchangedExcept [.v, .pc, .run, .hostInputs] s t) ∧
  ∀ (s : State) (k : Key) (rest : List HostInput), (∀ r, s.run ≠ .awaitingKey r) →
    s.hostInputs = .keyEvent k :: rest → step s = .next (s.setHostInputs rest)

/-- R290, R36 (the zeros are decision D3, log 11 and 12): what a reset with a program that fits leaves, whatever was before. -/
def Obligations.ResetLoadsTheProgram : Prop :=
  ∀ (s : State) (program : List Byte) (rest : List HostInput), s.hostInputs = .reset program :: rest →
    program.length ≤ 3584 →
    ∃ t, step s = .next t ∧
      (∀ (k : Nat) (b : Byte), program[k]? = some b → t.readByte (0x200 + k) = b) ∧
      (∀ k : Fin 80, t.readByte (Config.fontBase + k.val) = Config.fontTable k) ∧
      (∀ a, a < 4096 → (a < Config.fontBase ∨ Config.fontBase + 80 ≤ a) → (a < 0x200 ∨ 0x200 + program.length ≤ a) →
        t.readByte a = 0) ∧
      (∀ r, t.readV r = 0) ∧ t.i = 0 ∧ t.dt = 0 ∧ t.st = 0 ∧ t.sp = 0 ∧ (∀ k : Fin 16, t.stk[k] = 0) ∧
      (∀ p, t.pixel p = false) ∧ t.pc = 0x200 ∧ t.run = .running ∧ t.err = ErrorRecord.clear ∧
      t.hostInputs = rest ∧ UnchangedExcept [.v, .i, .pc, .stack, .dt, .st, .mem, .fb, .run, .err, .hostInputs] s t

/-- R292 (decision D28): a program longer than 3584 bytes: no byte of it is stored, the core comes out halted with
`LoadError`. -/
def Obligations.OversizedProgramHalts : Prop :=
  ∀ (s : State) (program : List Byte) (rest : List HostInput), s.hostInputs = .reset program :: rest →
    3584 < program.length →
    ∃ t, step s = .next t ∧ t.run = .halted ∧
      t.err = { kind := .loadError, pc := 0x200, opcodeValid := false, opcode := 0, addrValid := false, addr := 0 } ∧
      (∀ k : Fin 80, t.readByte (Config.fontBase + k.val) = Config.fontTable k) ∧
      (∀ a, a < 4096 → (a < Config.fontBase ∨ Config.fontBase + 80 ≤ a) → t.readByte a = 0) ∧
      (∀ r, t.readV r = 0) ∧ t.i = 0 ∧ t.dt = 0 ∧ t.st = 0 ∧ t.sp = 0 ∧ (∀ k : Fin 16, t.stk[k] = 0) ∧
      (∀ p, t.pixel p = false) ∧ t.pc = 0x200 ∧ t.hostInputs = rest

/-- R36 (all but `PC` and the empty stack are decisions D3, D17, logs 11 and 12): the state right after reset. -/
def Obligations.ResetStateValues : Prop :=
  State.reset.pc = 0x200 ∧ State.reset.sp = 0 ∧ (∀ r, State.reset.readV r = 0) ∧ State.reset.i = 0 ∧
  State.reset.dt = 0 ∧ State.reset.st = 0 ∧ (∀ p, State.reset.pixel p = false) ∧ State.reset.run = .running ∧
  State.reset.err = ErrorRecord.clear ∧ (∀ a, 0x200 ≤ a → State.reset.readByte a = 0) ∧
  ∀ k : Fin 80, State.reset.readByte (Config.fontBase + k.val) = Config.fontTable k

/-- R293: with no program the first step meets the unknown word 0x0000. -/
def Obligations.EmptyProgramMeetsAnUnknownWord : Prop :=
  step State.reset = .next (State.reset.takeUnknown Config.unknownPolicy 0x0000)

/-! ## Registers, arithmetic, logic (42_register_alu.md) -/

/-- R162, R163, R164: `6xnn`, `7xnn`, `8xy0`, for every `x` (F included), and nothing else changes. -/
def Obligations.LoadAddMoveResults : Prop :=
  ∀ (x y : RegIdx) (nn : Byte) (s : State),
    (∃ t, exec (.ldb x nn) s = .next t ∧ RegWritten s t x nn) ∧
    (∃ t, exec (.addb x nn) s = .next t ∧
      RegWritten s t x (BitVec.ofNat 8 (((s.readV x).toNat + nn.toNat) % 256))) ∧
    ∃ t, exec (.mov x y) s = .next t ∧ RegWritten s t x (s.readV y)

/-- R165, R166, R167: `8xy1`, `8xy2`, `8xy3`, bit by bit, and nothing else changes, VF included. -/
def Obligations.LogicResults : Prop :=
  ∀ (x y : RegIdx) (s : State),
    (∃ t, exec (.or x y) s = .next t ∧ RegWritten s t x (s.readV x ||| s.readV y)) ∧
    (∃ t, exec (.and x y) s = .next t ∧ RegWritten s t x (s.readV x &&& s.readV y)) ∧
    ∃ t, exec (.xor x y) s = .next t ∧ RegWritten s t x (s.readV x ^^^ s.readV y)

/-- R168: `8xy4` with neither operand VF (those forms: `FlagRegisterOperandResults`). -/
def Obligations.AddResult : Prop :=
  ∀ (x y : RegIdx) (s : State), x ≠ flagReg → y ≠ flagReg →
    ∃ t, exec (.add x y) s = .next t ∧
      RegAndFlagWritten s t x (BitVec.ofNat 8 (((s.readV x).toNat + (s.readV y).toNat) % 256))
        (if 255 < (s.readV x).toNat + (s.readV y).toNat then 1 else 0)

/-- R169, R171: `8xy5`, `8xy7` with neither operand VF: the flag is 1 when no borrow is needed. -/
def Obligations.SubtractResults : Prop :=
  ∀ (x y : RegIdx) (s : State), x ≠ flagReg → y ≠ flagReg →
    (∃ t, exec (.sub x y) s = .next t ∧
      RegAndFlagWritten s t x (BitVec.ofNat 8 ((256 + (s.readV x).toNat - (s.readV y).toNat) % 256))
        (if (s.readV y).toNat ≤ (s.readV x).toNat then 1 else 0)) ∧
    ∃ t, exec (.subn x y) s = .next t ∧
      RegAndFlagWritten s t x (BitVec.ofNat 8 ((256 + (s.readV y).toNat - (s.readV x).toNat) % 256))
        (if (s.readV x).toNat ≤ (s.readV y).toNat then 1 else 0)

/-- R170, R172: `8xy6`, `8xyE` with `x` not F, for every `y`: the flag is the bit shifted out. -/
def Obligations.ShiftResults : Prop :=
  ∀ (x y : RegIdx) (s : State), x ≠ flagReg →
    (∃ t, exec (.shr x y) s = .next t ∧
      RegAndFlagWritten s t x (BitVec.ofNat 8 ((s.readV x).toNat / 2)) (BitVec.ofNat 8 ((s.readV x).toNat % 2))) ∧
    ∃ t, exec (.shl x y) s = .next t ∧
      RegAndFlagWritten s t x (BitVec.ofNat 8 ((s.readV x).toNat * 2 % 256)) (BitVec.ofNat 8 ((s.readV x).toNat / 128))

/-- R174, R128 (decision D8, log 15): VF as an operand. With `x = F` the result stays in VF; with `y = F` the old VF is the
operand and VF ends holding the flag. -/
def Obligations.FlagRegisterOperandResults : Prop :=
  ∀ (x y : RegIdx) (s : State), x ≠ flagReg →
    (∃ t, exec (.add flagReg y) s = .next t ∧
      RegWritten s t flagReg (BitVec.ofNat 8 (((s.readV flagReg).toNat + (s.readV y).toNat) % 256))) ∧
    (∃ t, exec (.sub flagReg y) s = .next t ∧
      RegWritten s t flagReg (BitVec.ofNat 8 ((256 + (s.readV flagReg).toNat - (s.readV y).toNat) % 256))) ∧
    (∃ t, exec (.subn flagReg y) s = .next t ∧
      RegWritten s t flagReg (BitVec.ofNat 8 ((256 + (s.readV y).toNat - (s.readV flagReg).toNat) % 256))) ∧
    (∃ t, exec (.shr flagReg y) s = .next t ∧
      RegWritten s t flagReg (BitVec.ofNat 8 ((s.readV flagReg).toNat / 2))) ∧
    (∃ t, exec (.shl flagReg y) s = .next t ∧
      RegWritten s t flagReg (BitVec.ofNat 8 ((s.readV flagReg).toNat * 2 % 256))) ∧
    (∃ t, exec (.add x flagReg) s = .next t ∧
      RegAndFlagWritten s t x (BitVec.ofNat 8 (((s.readV x).toNat + (s.readV flagReg).toNat) % 256))
        (if 255 < (s.readV x).toNat + (s.readV flagReg).toNat then 1 else 0)) ∧
    (∃ t, exec (.sub x flagReg) s = .next t ∧
      RegAndFlagWritten s t x (BitVec.ofNat 8 ((256 + (s.readV x).toNat - (s.readV flagReg).toNat) % 256))
        (if (s.readV flagReg).toNat ≤ (s.readV x).toNat then 1 else 0)) ∧
    ∃ t, exec (.subn x flagReg) s = .next t ∧
      RegAndFlagWritten s t x (BitVec.ofNat 8 ((256 + (s.readV flagReg).toNat - (s.readV x).toNat) % 256))
        (if (s.readV x).toNat ≤ (s.readV flagReg).toNat then 1 else 0)

/-- R175 (derived by the spec): both operands the same register, not VF. -/
def Obligations.SameRegisterOperandResults : Prop :=
  ∀ (x : RegIdx) (s : State), x ≠ flagReg →
    (∃ t, exec (.mov x x) s = .next t ∧ PcWritten s t (s.pc + 2)) ∧
    (∃ t, exec (.or x x) s = .next t ∧ PcWritten s t (s.pc + 2)) ∧
    (∃ t, exec (.and x x) s = .next t ∧ PcWritten s t (s.pc + 2)) ∧
    (∃ t, exec (.xor x x) s = .next t ∧ RegWritten s t x 0) ∧
    (∃ t, exec (.add x x) s = .next t ∧
      RegAndFlagWritten s t x (BitVec.ofNat 8 (2 * (s.readV x).toNat % 256)) (if 128 ≤ (s.readV x).toNat then 1 else 0)) ∧
    (∃ t, exec (.sub x x) s = .next t ∧ RegAndFlagWritten s t x 0 1) ∧
    ∃ t, exec (.subn x x) s = .next t ∧ RegAndFlagWritten s t x 0 1

/-- R173, R42 (`PC + 2` is decision D7): the next random byte under the whole mask `nn`, whatever byte it is (log 5). -/
def Obligations.RandomByteUnderMask : Prop :=
  ∀ (x : RegIdx) (nn : Byte) (s : State),
    ∃ t, exec (.rnd x nn) s = .next t ∧ t.readV x = Config.randomByte s.randomDraws &&& nn ∧ SameRegsBut x s t ∧
      t.pc = s.pc + 2 ∧ t.randomDraws = s.randomDraws + 1 ∧ UnchangedExcept [.v, .pc, .randomDraws] s t

/-! ## Control transfer (41_flow_and_stack.md) -/

/-- R146, R145: `1nnn`, and `Bnnn` whose 16-bit sum is not reduced modulo 4096. -/
def Obligations.JumpResults : Prop :=
  ∀ (nnn : Addr12) (s : State),
    (∃ t, exec (.jp nnn) s = .next t ∧ t.pc.toNat = nnn.toNat ∧ UnchangedExcept [.pc] s t) ∧
    ∃ t, exec (.jpv0 nnn) s = .next t ∧ t.pc.toNat = (s.readV 0).toNat + nnn.toNat ∧ UnchangedExcept [.pc] s t

/-- R132: a jump to its own address leaves all state unchanged. -/
def Obligations.JumpToItselfChangesNothing : Prop :=
  ∀ (nnn : Addr12) (s : State), s.pc.toNat = nnn.toNat → exec (.jp nnn) s = .next s

/-- R147: `2nnn` pushes `PC + 2` and jumps; with `SP = 16` it raises `StackOverflow` and pushes nothing. That the overflow
changes nothing but `ERR` and `RUN` is decision D15 (log 20), that entries at and above `SP` keep their values decision D26
(log 14). -/
def Obligations.CallResult : Prop :=
  ∀ (nnn : Addr12) (s : State),
    (s.sp ≠ 16 → ∃ t, exec (.call nnn) s = .next t ∧ t.pc.toNat = nnn.toNat ∧ t.sp.val = s.sp.val + 1 ∧
      t.stk[s.sp.val]? = some (s.pc + 2) ∧ (∀ k, k ≠ s.sp.val → t.stk[k]? = s.stk[k]?) ∧
      UnchangedExcept [.pc, .stack] s t) ∧
    (s.sp = 16 → ∃ t, exec (.call nnn) s = .next t ∧ t.err.kind = .stackOverflow ∧ t.run = .halted ∧
      UnchangedExcept [.err, .run] s t)

/-- R144: `00EE` pops `PC`, nothing added, and erases no entry; with `SP = 0` it raises `StackUnderflow`. That no entry is
erased is decision D26 (log 14), which U12 leaves open; that the underflow changes nothing but `ERR` and `RUN` is decision D15
(log 20). -/
def Obligations.ReturnResult : Prop :=
  ∀ s : State,
    (s.sp ≠ 0 → ∃ t, exec .ret s = .next t ∧ t.sp.val + 1 = s.sp.val ∧ s.stk[t.sp.val]? = some t.pc ∧ t.stk = s.stk ∧
      UnchangedExcept [.pc, .stack] s t) ∧
    (s.sp = 0 → ∃ t, exec .ret s = .next t ∧ t.err.kind = .stackUnderflow ∧ t.run = .halted ∧
      UnchangedExcept [.err, .run] s t)

/-- R147 with R144: a call and then a return, whatever ran between them on the same stack, come back to the instruction
after the call with the entries in use as they were (the count and the entries are decision D26, log 14). -/
def Obligations.CallThenReturnComesBack : Prop :=
  ∀ (nnn : Addr12) (s t u : State), s.sp ≠ 16 → exec (.call nnn) s = .next t → u.sp = t.sp → u.stk = t.stk →
    ∃ w, exec .ret u = .next w ∧ w.pc = s.pc + 2 ∧ w.sp = s.sp ∧ w.liveStack = s.liveStack

/-- R148, R149, R150, R151: the four comparing skips. -/
def Obligations.CompareSkipResults : Prop :=
  ∀ (x y : RegIdx) (nn : Byte) (s : State),
    (∃ t, exec (.se x nn) s = .next t ∧ PcWritten s t (s.pc + if s.readV x = nn then 4 else 2)) ∧
    (∃ t, exec (.sne x nn) s = .next t ∧ PcWritten s t (s.pc + if s.readV x ≠ nn then 4 else 2)) ∧
    (∃ t, exec (.ser x y) s = .next t ∧ PcWritten s t (s.pc + if s.readV x = s.readV y then 4 else 2)) ∧
    ∃ t, exec (.sner x y) s = .next t ∧ PcWritten s t (s.pc + if s.readV x ≠ s.readV y then 4 else 2)

/-- R230, R231, R233 (decisions D6, D7, D10, log 17 and 18): the two key skips ask once about the key in the low four bits of
`V[x]`; the answer is free (log 6). -/
def Obligations.KeySkipResults : Prop :=
  ∀ (x : RegIdx) (s : State),
    (∃ t, exec (.skp x) s = .next t ∧
      t.pc = s.pc + (if Config.keyPressed s.keyQueries (BitVec.ofNat 4 ((s.readV x).toNat % 16)) = true then 4 else 2) ∧
      t.keyQueries = s.keyQueries + 1 ∧ UnchangedExcept [.pc, .keyQueries] s t) ∧
    ∃ t, exec (.sknp x) s = .next t ∧
      t.pc = s.pc + (if Config.keyPressed s.keyQueries (BitVec.ofNat 4 ((s.readV x).toNat % 16)) = true then 2 else 4) ∧
      t.keyQueries = s.keyQueries + 1 ∧ UnchangedExcept [.pc, .keyQueries] s t

/-! ## Index register and memory (43_index_and_memory.md, 20_memory.md) -/

/-- R190, R191: `Annn` loads all 12 bits; `Fx1E` adds modulo 4096 and leaves VF alone. -/
def Obligations.IndexRegisterResults : Prop :=
  ∀ (nnn : Addr12) (x : RegIdx) (s : State),
    (∃ t, exec (.ldix nnn) s = .next t ∧ t.i.toNat = nnn.toNat ∧ t.pc = s.pc + 2 ∧ UnchangedExcept [.i, .pc] s t) ∧
    ∃ t, exec (.addix x) s = .next t ∧ t.i.toNat = (s.i.toNat + (s.readV x).toNat) % 4096 ∧ t.pc = s.pc + 2 ∧
      UnchangedExcept [.i, .pc] s t

/-- R192 (`PC + 2` is decision D7, no mask is decision D11): the glyph address for every admissible font base. -/
def Obligations.GlyphAddressResult : Prop :=
  ∀ (x : RegIdx) (s : State),
    ∃ t, exec (.font x) s = .next t ∧ t.i.toNat = Config.fontBase + 5 * (s.readV x).toNat ∧ t.pc = s.pc + 2 ∧
      UnchangedExcept [.i, .pc] s t

/-- R193 (`PC + 2` is decision D7): the three decimal digits at `I`, `I + 1`, `I + 2`, every other byte as before. -/
def Obligations.DecimalDigitsStored : Prop :=
  ∀ (x : RegIdx) (s : State), s.base + 2 ≤ 0xFFF →
    ∃ t, exec (.bcd x) s = .next t ∧
      t.readByte s.base = BitVec.ofNat 8 ((s.readV x).toNat / 100) ∧
      t.readByte (s.base + 1) = BitVec.ofNat 8 ((s.readV x).toNat / 10 % 10) ∧
      t.readByte (s.base + 2) = BitVec.ofNat 8 ((s.readV x).toNat % 10) ∧
      (∀ a, a < s.base ∨ s.base + 2 < a → t.readByte a = s.readByte a) ∧
      t.pc = s.pc + 2 ∧ UnchangedExcept [.mem, .pc] s t

/-- R194 (`PC + 2` is decision D7, `I` unchanged is decision D9): `V[k]` at `I + k` for `k` up to `x`, every other byte as
before. -/
def Obligations.RegistersStored : Prop :=
  ∀ (x : RegIdx) (s : State), s.base + x.toNat ≤ 0xFFF →
    ∃ t, exec (.stm x) s = .next t ∧
      (∀ k : RegIdx, k.toNat ≤ x.toNat → t.readByte (s.base + k.toNat) = s.readV k) ∧
      (∀ a, a < s.base ∨ s.base + x.toNat < a → t.readByte a = s.readByte a) ∧
      t.pc = s.pc + 2 ∧ UnchangedExcept [.mem, .pc] s t

/-- R195 (`PC + 2` is decision D7, `I` unchanged is decision D9): `V[k]` from `I + k` for `k` up to `x`, the registers above
as before. -/
def Obligations.RegistersLoaded : Prop :=
  ∀ (x : RegIdx) (s : State), s.base + x.toNat ≤ 0xFFF →
    ∃ t, exec (.ldm x) s = .next t ∧
      (∀ k : RegIdx, k.toNat ≤ x.toNat → t.readV k = s.readByte (s.base + k.toNat)) ∧
      (∀ k : RegIdx, x.toNat < k.toNat → t.readV k = s.readV k) ∧
      t.pc = s.pc + 2 ∧ UnchangedExcept [.v, .pc] s t

/-- R66, R129, R142, R143, R254, R256 (decisions D14, D15, D17, D18): where the six instructions that can fail do, the whole
record they leave, and that nothing else changes. -/
def Obligations.ErrorEntryAndRecord : Prop :=
  ∀ (nnn : Addr12) (x y : RegIdx) (n : Nibble) (s : State),
    (s.sp = 16 → ∃ t, exec (.call nnn) s = .next t ∧ Raised s t
      { kind := .stackOverflow, pc := s.pc, opcodeValid := true, opcode := encode (.call nnn), addrValid := false, addr := 0 }) ∧
    (s.sp = 0 → ∃ t, exec .ret s = .next t ∧ Raised s t
      { kind := .stackUnderflow, pc := s.pc, opcodeValid := true, opcode := 0x00EE, addrValid := false, addr := 0 }) ∧
    (0xFFF < s.base + 2 → ∃ t, exec (.bcd x) s = .next t ∧ Raised s t
      { kind := .outOfRange, pc := s.pc, opcodeValid := true, opcode := encode (.bcd x), addrValid := true, addr := s.i }) ∧
    (0xFFF < s.base + x.toNat → ∃ t, exec (.stm x) s = .next t ∧ Raised s t
      { kind := .outOfRange, pc := s.pc, opcodeValid := true, opcode := encode (.stm x), addrValid := true, addr := s.i }) ∧
    (0xFFF < s.base + x.toNat → ∃ t, exec (.ldm x) s = .next t ∧ Raised s t
      { kind := .outOfRange, pc := s.pc, opcodeValid := true, opcode := encode (.ldm x), addrValid := true, addr := s.i }) ∧
    (1 ≤ n.toNat → 0xFFF < s.base + n.toNat - 1 → ∃ t, exec (.drw x y n) s = .next t ∧ Raised s t
      { kind := .outOfRange, pc := s.pc, opcodeValid := true, opcode := encode (.drw x y n), addrValid := true, addr := s.i })

/-- R73 (derived by the spec): bytes stored by `Fx55` are what a fetch from there gets, with nothing in between. -/
def Obligations.StoredBytesAreFetched : Prop :=
  ∀ (x k : RegIdx) (s t u : State), s.base + x.toNat ≤ 0xFFF → k.toNat < x.toNat → exec (.stm x) s = .next t →
    u.mem = t.mem → u.pc.toNat = s.base + k.toNat →
    ∃ op, u.fetch = some op ∧ op.toNat = 256 * (s.readV k).toNat + (s.readV (k + 1)).toNat

/-- R64: a store followed by a load of the same addresses returns what was stored, whatever the registers hold by then. -/
def Obligations.StoreThenLoadRestoresRegisters : Prop :=
  ∀ (x : RegIdx) (s t u : State), s.base + x.toNat ≤ 0xFFF → exec (.stm x) s = .next t → u.mem = t.mem → u.i = s.i →
    ∃ w, exec (.ldm x) u = .next w ∧ ∀ k : RegIdx, k.toNat ≤ x.toNat → w.readV k = s.readV k

/-! ## Display (44_display.md) -/

/-- The sprite of a `Dxyn` at state `s` has a set bit on cell `p` (R211, the set S of R215). -/
def SpriteHits (s : State) (x y : RegIdx) (n : Nibble) (p : Nat) : Prop :=
  ∃ r c, r < n.toNat ∧ c < 8 ∧ (s.readByte (s.base + r)).getLsbD (7 - c) = true ∧
    ((s.readV x).toNat + c) % 64 + 64 * (((s.readV y).toNat + r) % 32) = p

/-- R210: `00E0` turns all 2048 cells off and leaves VF and all else alone. -/
def Obligations.ClearScreenResult : Prop :=
  ∀ s : State, ∃ t, exec .cls s = .next t ∧ (∀ p, p < 2048 → t.pixel p = false) ∧ t.pc = s.pc + 2 ∧
    UnchangedExcept [.fb, .pc] s t

/-- R212, R211, R215 (a) and (b), R216 (decision D8 for `x = F`, `y = F`): a draw flips exactly the cells its set bits hit,
and VF says whether one of them was on. -/
def Obligations.DrawIsXorWithCollision : Prop :=
  ∀ (x y : RegIdx) (n : Nibble) (s : State), (n = 0 ∨ s.base + n.toNat - 1 ≤ 0xFFF) →
    ∃ t, exec (.drw x y n) s = .next t ∧
      (∀ p, SpriteHits s x y n p → t.pixel p = !s.pixel p) ∧
      (∀ p, ¬ SpriteHits s x y n p → t.pixel p = s.pixel p) ∧
      ((∃ p, SpriteHits s x y n p ∧ s.pixel p = true) → t.readV flagReg = 1) ∧
      (¬ (∃ p, SpriteHits s x y n p ∧ s.pixel p = true) → t.readV flagReg = 0) ∧
      SameRegsBut flagReg s t ∧ t.pc = s.pc + 2 ∧ UnchangedExcept [.fb, .v, .pc] s t

/-- R214 (decision D25): no row draws nothing and checks no range, wherever `I` points; VF becomes 0. -/
def Obligations.DrawWithoutRows : Prop :=
  ∀ (x y : RegIdx) (s : State),
    ∃ t, exec (.drw x y 0) s = .next t ∧ t.readV flagReg = 0 ∧ SameRegsBut flagReg s t ∧ t.pc = s.pc + 2 ∧
      UnchangedExcept [.v, .pc] s t

/-- R215 (c), C6: drawing the same sprite bytes at the same coordinates twice restores the framebuffer; the flag of the first
draw says whether a hit cell was on, the flag of the second whether one was off. -/
def Obligations.DrawTwiceRestoresTheScreen : Prop :=
  ∀ (x y : RegIdx) (n : Nibble) (s t u w : State), (n = 0 ∨ s.base + n.toNat - 1 ≤ 0xFFF) →
    exec (.drw x y n) s = .next t → u.fb = t.fb → u.mem = s.mem → u.i = s.i → u.readV x = s.readV x →
    u.readV y = s.readV y → exec (.drw x y n) u = .next w →
    (∀ p, w.pixel p = s.pixel p) ∧
      (t.readV flagReg = 1 ↔ ∃ p, SpriteHits s x y n p ∧ s.pixel p = true) ∧
      (w.readV flagReg = 1 ↔ ∃ p, SpriteHits s x y n p ∧ s.pixel p = false)

/-- R215 (d): `vx` and `vx + 64`, `vy` and `vy + 32` draw the same picture. -/
def Obligations.DrawWrapsStartCoordinates : Prop :=
  ∀ (vx vy : Byte) (rows : List Byte) (fb : Framebuffer),
    drawSprite (vx + 64) vy rows fb = drawSprite vx vy rows fb ∧ drawSprite vx (vy + 32) rows fb = drawSprite vx vy rows fb

/-- R213 (derived by the spec): no two bits of one sprite land on the same cell. -/
def Obligations.SpriteCellsAreDistinct : Prop :=
  ∀ (vx vy : Byte) (r r' c c' : Nat), r < 15 → r' < 15 → c < 8 → c' < 8 →
    spriteCell vx vy r c = spriteCell vx vy r' c' → r = r' ∧ c = c'

/-! ## Keys and timers (45_keys_and_timer_access.md) -/

/-- R232, R236, R237 (decision D5, log 17): `Fx07` reads DT, `Fx15` writes DT, `Fx18` writes ST. -/
def Obligations.TimerAccessResults : Prop :=
  ∀ (x : RegIdx) (s : State),
    (∃ t, exec (.getdt x) s = .next t ∧ RegWritten s t x s.dt) ∧
    (∃ t, exec (.setdt x) s = .next t ∧ t.dt = s.readV x ∧ t.pc = s.pc + 2 ∧ UnchangedExcept [.dt, .pc] s t) ∧
    ∃ t, exec (.setst x) s = .next t ∧ t.st = s.readV x ∧ t.pc = s.pc + 2 ∧ UnchangedExcept [.st, .pc] s t

/-- R234 (decision D21, log 23): `Fx0A` records the wait and nothing else; `PC` still holds its address. -/
def Obligations.KeyWaitResult : Prop :=
  ∀ (x : RegIdx) (s : State), ∃ t, exec (.waitk x) s = .next t ∧ t.run = .awaitingKey x ∧ UnchangedExcept [.run] s t

/-- R238 (derived by the spec): unless a reset or a `SETDT` is what happens, no step lets DT grow, and `k` ticks take it down
by `k`, to zero at the least. -/
def Obligations.DelayTimerOnlyCountsDown : Prop :=
  (∀ s t : State, (∀ program rest, s.hostInputs ≠ .reset program :: rest) →
    (∀ s0 op x, StepRequested s s0 → s.run = .running → FetchedWord s op → decodeWord op ≠ .known (.setdt x)) →
    step s = .next t → t.dt.toNat ≤ s.dt.toNat) ∧
  ∀ (k : Nat) (s : State), (Nat.repeat State.tickStep k s).dt.toNat = s.dt.toNat - k

/-- R271, R31: while a core waits, every step but a key event or a reset leaves all but the timers unchanged; a key event
wakes it and keeps all else; and no instruction but `Fx0A` enters the state. That `PC` stays during the wait and only a key
event completes it is decision D21 (log 23); that a step request answers the same state is log 8. -/
def Obligations.WaitingCoreIsFrozen : Prop :=
  (∀ (s t : State) (r : RegIdx), s.run = .awaitingKey r → (∀ k rest, s.hostInputs ≠ .keyEvent k :: rest) →
    (∀ program rest, s.hostInputs ≠ .reset program :: rest) → step s = .next t →
    t.run = .awaitingKey r ∧ UnchangedExcept [.dt, .st, .hostInputs] s t) ∧
  (∀ (s : State) (r : RegIdx) (k : Key) (rest : List HostInput), s.run = .awaitingKey r →
    s.hostInputs = .keyEvent k :: rest →
    ∃ t, step s = .next t ∧ t.run = .running ∧ SameRegsBut r s t ∧ UnchangedExcept [.v, .pc, .run, .hostInputs] s t) ∧
  ∀ (i : Instr) (s t : State) (r : RegIdx), s.run = .running → exec i s = .next t → t.run = .awaitingKey r →
    i = .waitk r

/-! ## The whole machine -/

/-- R37 (derived by the spec): the invariant of every reachable state is kept by every step, ticks, key events and resets
included. -/
def Obligations.EveryStepKeepsTheInvariant : Prop :=
  ∀ s t : State, Inv s → step s = .next t → Inv t

/-- R36, R37: the state after reset meets the invariant. -/
def Obligations.ResetMeetsTheInvariant : Prop := Inv State.reset

/-- R35, R130: what each instruction changes when it raises nothing, and that it changes nothing else. -/
def Obligations.InstructionsWriteOnlyTheirState : Prop :=
  ∀ (i : Instr) (s t : State), raises i s = none → exec i s = .next t → UnchangedExcept (writesOf i) s t

/-- R22, R35: a register changes only under an instruction that names it as a destination; VF also under one of the six flag
writers. -/
def Obligations.RegistersChangeOnlyAsDestinations : Prop :=
  ∀ (i : Instr) (s t : State) (r : RegIdx), exec i s = .next t → namesAsDestination r i = false →
    (r ≠ flagReg ∨ writesFlag i = false) → t.readV r = s.readV r

/-- R250, R257, R259, R264 (precision is decision D15): an instruction raises exactly the error listed for it, under exactly
the listed condition; then nothing but `ERR` and `RUN` changes; otherwise `ERR` is untouched and the core goes on. -/
def Obligations.ErrorsExactlyAsListed : Prop :=
  ∀ (i : Instr) (s : State),
    (raises i s = none → ∃ t, exec i s = .next t ∧ t.err = s.err ∧
      (t.run = s.run ∨ ∃ x, i = .waitk x ∧ t.run = .awaitingKey x)) ∧
    ∀ k, raises i s = some k → ∃ t, exec i s = .next t ∧ t.err.kind = k ∧ t.err.pc = s.pc ∧ t.err.opcode = encode i ∧
      t.run = .halted ∧ UnchangedExcept [.err, .run] s t

/-- R260 (derived by the spec): a halted core stays halted with its record, and all but the timers frozen, until a reset. That
only a reset leaves `Halted` is decision D30, that a step request answers the same state log 8, that ticks go on decision D20
(log 23). -/
def Obligations.OnlyResetLeavesHalted : Prop :=
  ∀ s t : State, s.run = .halted → (∀ program rest, s.hostInputs ≠ .reset program :: rest) → step s = .next t →
    t.run = .halted ∧ UnchangedExcept [.dt, .st, .hostInputs] s t

/-- R26, R46, U12: stack entries at and above `SP` influence nothing: two states that differ only there step to two states
that differ only there, and the host reads the same from both. -/
def Obligations.DeadStackEntriesAreUnobservable : Prop :=
  ∀ s t s' : State, SameButDeadStack s t → step s = .next s' →
    ∃ t', step t = .next t' ∧ SameButDeadStack s' t' ∧ s'.snapshot = t'.snapshot

/-- R65: every instruction but the jumps, the call and the return keeps an even `PC` even. -/
def Obligations.StraightCodeKeepsPcEven : Prop :=
  ∀ (i : Instr) (s t : State), jumps i = false → pcEven s = true → exec i s = .next t → pcEven t = true

/-- R35, R62, R298: memory changes only at the addresses an instruction stores to, and a program that stores nothing below
0x200 leaves the font and all of the reserved area as it was. -/
def Obligations.MemoryChangesOnlyWhereStored : Prop :=
  (∀ (i : Instr) (s t : State) (a : Nat), exec i s = .next t → storesTo i s a = false → t.readByte a = s.readByte a) ∧
  ∀ (i : Instr) (s t : State), exec i s = .next t → storesAboveBase i s = true →
    ∀ a, a < 0x200 → t.readByte a = s.readByte a

/-- R42, R40: the random source is asked once by each `Cxnn`, the key query once by each `Ex9E` and `ExA1`, and neither at
any other time (the two counters are the model's own, logs 5 and 6). -/
def Obligations.OutsideSourcesAskedOnce : Prop :=
  ∀ (i : Instr) (s t : State), exec i s = .next t →
    t.randomDraws = s.randomDraws + (if i.mnemonic = "RND" then 1 else 0) ∧
    t.keyQueries = s.keyQueries + (if i.mnemonic = "SKP" ∨ i.mnemonic = "SKNP" then 1 else 0)

/-- R35, R237: no instruction reads `ST`: two states that differ only there run every instruction alike. -/
def Obligations.SoundTimerIsReadByNoInstruction : Prop :=
  ∀ (i : Instr) (s t : State) (a : Byte), exec i s = .next t →
    ∃ u, exec i (s.setSt a) = .next u ∧ ∀ q, q ≠ .st → Same t u q
end

