-- ==== Sys2Proof/Laws/Memory.lean ====
section
/-! SUPPORT. Memory: reads after writes, runs of bytes, and every operation keeps the canonical form. -/

namespace Sys2Proof.Machine

/-! ## Reads after writes -/

theorem read_insert (m : Memory) (a b : Nat) (v : Byte) :
    (m.insert a v).read b = if b = a then v else m.read b := by
  induction m with
  | nil => simp [Memory.insert, Memory.read]
  | cons p m ih =>
    obtain ⟨k, c⟩ := p
    simp only [Memory.insert]
    split
    · simp [Memory.read]
    · split
      · subst_vars; simp only [Memory.read]; split <;> simp_all
      · simp only [Memory.read, ih]; split
        · subst_vars; split <;> simp_all
        · rfl

theorem wfFrom_mono {m : Memory} {lo lo' : Nat} (h : m.wfFrom lo = true) (hl : lo' ≤ lo) : m.wfFrom lo' = true := by
  cases m with
  | nil => rfl
  | cons p m =>
    obtain ⟨k, c⟩ := p
    simp only [Memory.wfFrom, Bool.and_eq_true, decide_eq_true_eq] at h ⊢
    exact ⟨⟨⟨by omega, h.1.1.2⟩, h.1.2⟩, h.2⟩

theorem read_erase (m : Memory) (a b : Nat) :
    (m.erase a).read b = if b = a then Memory.initial a else m.read b := by
  induction m with
  | nil => simp only [Memory.erase, Memory.read]; split <;> simp_all
  | cons p m ih =>
    obtain ⟨k, c⟩ := p
    simp only [Memory.erase]
    split
    · subst_vars
      rw [ih]; simp only [Memory.read]; split <;> rfl
    · simp only [Memory.read, ih]
      split
      · subst_vars; split <;> simp_all
      · rfl

/-- A write changes the byte at its address and no other; outside memory it changes nothing (R10). -/
theorem read_write (m : Memory) (a b : Nat) (v : Byte) :
    (m.write a v).read b = if b = a ∧ a < Config.memSize then v else m.read b := by
  unfold Memory.write
  split
  · split
    · rw [read_erase]; split <;> simp_all
    · rw [read_insert]; split <;> simp_all
  · simp_all

theorem read_write_same (m : Memory) {a : Nat} (ha : a < Config.memSize) (v : Byte) :
    (m.write a v).read a = v := by simp [read_write, ha]

theorem read_write_other (m : Memory) {a b : Nat} (hb : b ≠ a) (v : Byte) :
    (m.write a v).read b = m.read b := by simp [read_write, hb]

/-! ## The canonical form is kept -/

theorem wfFrom_insert {m : Memory} {lo a : Nat} {v : Byte} (h : m.wfFrom lo = true) (hlo : lo ≤ a)
    (ha : a < Config.memSize) (hv : v ≠ Memory.initial a) : (m.insert a v).wfFrom lo = true := by
  induction m generalizing lo with
  | nil => simp [Memory.insert, Memory.wfFrom, hlo, ha, hv]
  | cons p m ih =>
    obtain ⟨k, c⟩ := p
    simp only [Memory.wfFrom, Bool.and_eq_true, decide_eq_true_eq] at h
    simp only [Memory.insert]
    split
    · simp only [Memory.wfFrom, Bool.and_eq_true, decide_eq_true_eq, bne_iff_ne, ne_eq]
      exact ⟨⟨⟨hlo, ha⟩, hv⟩, ⟨⟨by omega, h.1.1.2⟩, by simpa using h.1.2⟩, h.2⟩
    · split
      · subst_vars
        simp only [Memory.wfFrom, Bool.and_eq_true, decide_eq_true_eq, bne_iff_ne, ne_eq]
        exact ⟨⟨⟨hlo, ha⟩, hv⟩, h.2⟩
      · simp only [Memory.wfFrom, Bool.and_eq_true, decide_eq_true_eq]
        exact ⟨h.1, ih h.2 (by omega)⟩

theorem wfFrom_erase {m : Memory} {lo : Nat} (h : m.wfFrom lo = true) (a : Nat) : (m.erase a).wfFrom lo = true := by
  induction m generalizing lo with
  | nil => rfl
  | cons p m ih =>
    obtain ⟨k, c⟩ := p
    simp only [Memory.wfFrom, Bool.and_eq_true, decide_eq_true_eq] at h
    simp only [Memory.erase]
    split
    · exact wfFrom_mono (ih h.2) (by omega)
    · simp only [Memory.wfFrom, Bool.and_eq_true, decide_eq_true_eq]
      exact ⟨h.1, ih h.2⟩

/-- A write keeps the canonical form. -/
theorem wf_write {m : Memory} (h : m.wf = true) (a : Nat) (v : Byte) : (m.write a v).wf = true := by
  unfold Memory.write
  split
  · split
    · exact wfFrom_erase h a
    · exact wfFrom_insert h (Nat.zero_le _) (by assumption) (by assumption)
  · exact h

/-- A run of writes keeps the canonical form. -/
theorem wf_writeRun {m : Memory} (h : m.wf = true) (a : Nat) (bs : List Byte) : (m.writeRun a bs).wf = true := by
  induction bs generalizing m a with
  | nil => exact h
  | cons b bs ih => exact ih (wf_write h a b) (a + 1)

theorem wfFrom_image (bs : List Byte) (a : Nat) (h : a + bs.length ≤ Config.memSize) :
    (Memory.image a bs).wfFrom a = true := by
  induction bs generalizing a with
  | nil => rfl
  | cons b bs ih =>
    simp only [List.length_cons] at h
    simp only [Memory.image]
    split
    · exact wfFrom_mono (ih (a + 1) (by omega)) (by omega)
    · simp only [Memory.wfFrom, Bool.and_eq_true, decide_eq_true_eq, bne_iff_ne, ne_eq]
      exact ⟨⟨⟨Nat.le_refl a, by omega⟩, by assumption⟩, ih (a + 1) (by omega)⟩

/-- The memory of a reset that loads a program is in canonical form. -/
theorem wf_image (bs : List Byte) (a : Nat) (h : a + bs.length ≤ Config.memSize) : (Memory.image a bs).wf = true :=
  wfFrom_mono (wfFrom_image bs a h) (Nat.zero_le a)

/-! ## Runs of bytes -/

/-- What a run of writes leaves at every address: the run's byte inside the run, the old byte outside it. -/
theorem read_writeRun (m : Memory) (a : Nat) (bs : List Byte)
    (hr : a + bs.length ≤ Config.memSize) (b : Nat) :
    (m.writeRun a bs).read b = if hb : a ≤ b ∧ b < a + bs.length then bs[b - a]'(by omega) else m.read b := by
  induction bs generalizing m a with
  | nil => simp [Memory.writeRun]
  | cons c bs ih =>
    simp only [List.length_cons] at hr
    simp only [Memory.writeRun, List.length_cons]
    rw [ih _ (a + 1) (by omega), read_write]
    by_cases hba : b = a
    · subst hba
      have : b < Config.memSize := by omega
      simp [this]
    · by_cases hin : a + 1 ≤ b ∧ b < a + 1 + bs.length
      · have h2 : a ≤ b ∧ b < a + (bs.length + 1) := by omega
        have h3 : b - a = (b - (a + 1)) + 1 := by omega
        simp [hin, h2, h3]
      · have h2 : ¬ (a ≤ b ∧ b < a + (bs.length + 1)) := by omega
        rw [dif_neg hin, dif_neg h2, if_neg (by simp [hba])]

@[simp] theorem length_readRun (m : Memory) (a n : Nat) : (m.readRun a n).length = n := by
  induction n generalizing a with
  | zero => rfl
  | succ n ih => simp [Memory.readRun, ih]

/-- The bytes of a run are the bytes at its addresses. -/
theorem getElem_readRun (m : Memory) (a n k : Nat) (hk : k < (m.readRun a n).length) :
    (m.readRun a n)[k] = m.read (a + k) := by
  induction n generalizing a k with
  | zero => simp at hk
  | succ n ih =>
    cases k with
    | zero => simp [Memory.readRun]
    | succ k =>
      simp only [Memory.readRun, List.getElem_cons_succ]
      rw [ih]; congr 1; omega

/-- Memory after a reset that loads a program: the program's bytes at their addresses, elsewhere what is not listed. -/
theorem read_image (bs : List Byte) (a b : Nat) :
    (Memory.image a bs).read b =
      if hb : a ≤ b ∧ b < a + bs.length then bs[b - a]'(by omega) else Memory.initial b := by
  induction bs generalizing a with
  | nil => simp [Memory.image, Memory.read]
  | cons c bs ih =>
    simp only [Memory.image, List.length_cons]
    by_cases hba : b = a
    · subst hba
      split
      · rw [ih]; simp_all
      · simp [Memory.read]
    · have key : (Memory.image (a + 1) bs).read b =
          if hb : a ≤ b ∧ b < a + (bs.length + 1) then (c :: bs)[b - a]'(by simp; omega) else Memory.initial b := by
        rw [ih]
        by_cases hin : a + 1 ≤ b ∧ b < a + 1 + bs.length
        · have h2 : a ≤ b ∧ b < a + (bs.length + 1) := by omega
          have h3 : b - a = (b - (a + 1)) + 1 := by omega
          simp [hin, h2, h3]
        · have h2 : ¬ (a ≤ b ∧ b < a + (bs.length + 1)) := by omega
          rw [dif_neg hin, dif_neg h2]
      split
      · exact key
      · simp only [Memory.read, hba, if_false]; exact key

/-- What an unlisted address reads as is zero from 0x200 on (R36). -/
theorem initial_of_progBase_le {a : Nat} (h : Config.progBase ≤ a) : Memory.initial a = 0 := by
  unfold Memory.initial; rw [if_neg (by omega)]

/-- The font lies below 0x200 (R6). -/
theorem fontBase_le : Config.fontBase ≤ 432 := by
  have := Config.fontBaseChoice.isLt; unfold Config.fontBase; omega

/-- Inside the font an unlisted address reads as the table's byte (R36). -/
theorem initial_font (k : Fin 80) : Memory.initial (Config.fontBase + k.val) = Config.fontTable k := by
  have h := fontBase_le
  have hk := k.isLt
  unfold Memory.initial Config.progBase
  rw [if_pos (by omega), dif_pos (by omega)]
  congr 1; apply Fin.ext; simp

end Sys2Proof.Machine
end

