-- ==== Sys2Proof/Laws/State.lean ====
section
/-! SUPPORT. One lemma per field per update of State, and the field lemmas of the operations built from the updates. -/

namespace Sys2Proof.Machine

variable (s : State)

/-! ### setV -/
@[simp] theorem setV_v (a : Vector Byte 16) : (s.setV a).v = a := rfl
@[simp] theorem setV_i (a : Vector Byte 16) : (s.setV a).i = s.i := rfl
@[simp] theorem setV_pc (a : Vector Byte 16) : (s.setV a).pc = s.pc := rfl
@[simp] theorem setV_sp (a : Vector Byte 16) : (s.setV a).sp = s.sp := rfl
@[simp] theorem setV_stk (a : Vector Byte 16) : (s.setV a).stk = s.stk := rfl
@[simp] theorem setV_dt (a : Vector Byte 16) : (s.setV a).dt = s.dt := rfl
@[simp] theorem setV_st (a : Vector Byte 16) : (s.setV a).st = s.st := rfl
@[simp] theorem setV_mem (a : Vector Byte 16) : (s.setV a).mem = s.mem := rfl
@[simp] theorem setV_fb (a : Vector Byte 16) : (s.setV a).fb = s.fb := rfl
@[simp] theorem setV_run (a : Vector Byte 16) : (s.setV a).run = s.run := rfl
@[simp] theorem setV_err (a : Vector Byte 16) : (s.setV a).err = s.err := rfl
@[simp] theorem setV_hostInputs (a : Vector Byte 16) : (s.setV a).hostInputs = s.hostInputs := rfl
@[simp] theorem setV_randomDraws (a : Vector Byte 16) : (s.setV a).randomDraws = s.randomDraws := rfl
@[simp] theorem setV_keyQueries (a : Vector Byte 16) : (s.setV a).keyQueries = s.keyQueries := rfl

/-! ### setI -/
@[simp] theorem setI_v (a : Word) : (s.setI a).v = s.v := rfl
@[simp] theorem setI_i (a : Word) : (s.setI a).i = a := rfl
@[simp] theorem setI_pc (a : Word) : (s.setI a).pc = s.pc := rfl
@[simp] theorem setI_sp (a : Word) : (s.setI a).sp = s.sp := rfl
@[simp] theorem setI_stk (a : Word) : (s.setI a).stk = s.stk := rfl
@[simp] theorem setI_dt (a : Word) : (s.setI a).dt = s.dt := rfl
@[simp] theorem setI_st (a : Word) : (s.setI a).st = s.st := rfl
@[simp] theorem setI_mem (a : Word) : (s.setI a).mem = s.mem := rfl
@[simp] theorem setI_fb (a : Word) : (s.setI a).fb = s.fb := rfl
@[simp] theorem setI_run (a : Word) : (s.setI a).run = s.run := rfl
@[simp] theorem setI_err (a : Word) : (s.setI a).err = s.err := rfl
@[simp] theorem setI_hostInputs (a : Word) : (s.setI a).hostInputs = s.hostInputs := rfl
@[simp] theorem setI_randomDraws (a : Word) : (s.setI a).randomDraws = s.randomDraws := rfl
@[simp] theorem setI_keyQueries (a : Word) : (s.setI a).keyQueries = s.keyQueries := rfl

/-! ### setPc -/
@[simp] theorem setPc_v (a : Word) : (s.setPc a).v = s.v := rfl
@[simp] theorem setPc_i (a : Word) : (s.setPc a).i = s.i := rfl
@[simp] theorem setPc_pc (a : Word) : (s.setPc a).pc = a := rfl
@[simp] theorem setPc_sp (a : Word) : (s.setPc a).sp = s.sp := rfl
@[simp] theorem setPc_stk (a : Word) : (s.setPc a).stk = s.stk := rfl
@[simp] theorem setPc_dt (a : Word) : (s.setPc a).dt = s.dt := rfl
@[simp] theorem setPc_st (a : Word) : (s.setPc a).st = s.st := rfl
@[simp] theorem setPc_mem (a : Word) : (s.setPc a).mem = s.mem := rfl
@[simp] theorem setPc_fb (a : Word) : (s.setPc a).fb = s.fb := rfl
@[simp] theorem setPc_run (a : Word) : (s.setPc a).run = s.run := rfl
@[simp] theorem setPc_err (a : Word) : (s.setPc a).err = s.err := rfl
@[simp] theorem setPc_hostInputs (a : Word) : (s.setPc a).hostInputs = s.hostInputs := rfl
@[simp] theorem setPc_randomDraws (a : Word) : (s.setPc a).randomDraws = s.randomDraws := rfl
@[simp] theorem setPc_keyQueries (a : Word) : (s.setPc a).keyQueries = s.keyQueries := rfl

/-! ### setStack -/
@[simp] theorem setStack_v (n : Fin 17) (a : Vector Word 16) : (s.setStack n a).v = s.v := rfl
@[simp] theorem setStack_i (n : Fin 17) (a : Vector Word 16) : (s.setStack n a).i = s.i := rfl
@[simp] theorem setStack_pc (n : Fin 17) (a : Vector Word 16) : (s.setStack n a).pc = s.pc := rfl
@[simp] theorem setStack_sp (n : Fin 17) (a : Vector Word 16) : (s.setStack n a).sp = n := rfl
@[simp] theorem setStack_stk (n : Fin 17) (a : Vector Word 16) : (s.setStack n a).stk = a := rfl
@[simp] theorem setStack_dt (n : Fin 17) (a : Vector Word 16) : (s.setStack n a).dt = s.dt := rfl
@[simp] theorem setStack_st (n : Fin 17) (a : Vector Word 16) : (s.setStack n a).st = s.st := rfl
@[simp] theorem setStack_mem (n : Fin 17) (a : Vector Word 16) : (s.setStack n a).mem = s.mem := rfl
@[simp] theorem setStack_fb (n : Fin 17) (a : Vector Word 16) : (s.setStack n a).fb = s.fb := rfl
@[simp] theorem setStack_run (n : Fin 17) (a : Vector Word 16) : (s.setStack n a).run = s.run := rfl
@[simp] theorem setStack_err (n : Fin 17) (a : Vector Word 16) : (s.setStack n a).err = s.err := rfl
@[simp] theorem setStack_hostInputs (n : Fin 17) (a : Vector Word 16) : (s.setStack n a).hostInputs = s.hostInputs := rfl
@[simp] theorem setStack_randomDraws (n : Fin 17) (a : Vector Word 16) : (s.setStack n a).randomDraws = s.randomDraws := rfl
@[simp] theorem setStack_keyQueries (n : Fin 17) (a : Vector Word 16) : (s.setStack n a).keyQueries = s.keyQueries := rfl

/-! ### setDt -/
@[simp] theorem setDt_v (a : Byte) : (s.setDt a).v = s.v := rfl
@[simp] theorem setDt_i (a : Byte) : (s.setDt a).i = s.i := rfl
@[simp] theorem setDt_pc (a : Byte) : (s.setDt a).pc = s.pc := rfl
@[simp] theorem setDt_sp (a : Byte) : (s.setDt a).sp = s.sp := rfl
@[simp] theorem setDt_stk (a : Byte) : (s.setDt a).stk = s.stk := rfl
@[simp] theorem setDt_dt (a : Byte) : (s.setDt a).dt = a := rfl
@[simp] theorem setDt_st (a : Byte) : (s.setDt a).st = s.st := rfl
@[simp] theorem setDt_mem (a : Byte) : (s.setDt a).mem = s.mem := rfl
@[simp] theorem setDt_fb (a : Byte) : (s.setDt a).fb = s.fb := rfl
@[simp] theorem setDt_run (a : Byte) : (s.setDt a).run = s.run := rfl
@[simp] theorem setDt_err (a : Byte) : (s.setDt a).err = s.err := rfl
@[simp] theorem setDt_hostInputs (a : Byte) : (s.setDt a).hostInputs = s.hostInputs := rfl
@[simp] theorem setDt_randomDraws (a : Byte) : (s.setDt a).randomDraws = s.randomDraws := rfl
@[simp] theorem setDt_keyQueries (a : Byte) : (s.setDt a).keyQueries = s.keyQueries := rfl

/-! ### setSt -/
@[simp] theorem setSt_v (a : Byte) : (s.setSt a).v = s.v := rfl
@[simp] theorem setSt_i (a : Byte) : (s.setSt a).i = s.i := rfl
@[simp] theorem setSt_pc (a : Byte) : (s.setSt a).pc = s.pc := rfl
@[simp] theorem setSt_sp (a : Byte) : (s.setSt a).sp = s.sp := rfl
@[simp] theorem setSt_stk (a : Byte) : (s.setSt a).stk = s.stk := rfl
@[simp] theorem setSt_dt (a : Byte) : (s.setSt a).dt = s.dt := rfl
@[simp] theorem setSt_st (a : Byte) : (s.setSt a).st = a := rfl
@[simp] theorem setSt_mem (a : Byte) : (s.setSt a).mem = s.mem := rfl
@[simp] theorem setSt_fb (a : Byte) : (s.setSt a).fb = s.fb := rfl
@[simp] theorem setSt_run (a : Byte) : (s.setSt a).run = s.run := rfl
@[simp] theorem setSt_err (a : Byte) : (s.setSt a).err = s.err := rfl
@[simp] theorem setSt_hostInputs (a : Byte) : (s.setSt a).hostInputs = s.hostInputs := rfl
@[simp] theorem setSt_randomDraws (a : Byte) : (s.setSt a).randomDraws = s.randomDraws := rfl
@[simp] theorem setSt_keyQueries (a : Byte) : (s.setSt a).keyQueries = s.keyQueries := rfl

/-! ### setMem -/
@[simp] theorem setMem_v (a : Memory) : (s.setMem a).v = s.v := rfl
@[simp] theorem setMem_i (a : Memory) : (s.setMem a).i = s.i := rfl
@[simp] theorem setMem_pc (a : Memory) : (s.setMem a).pc = s.pc := rfl
@[simp] theorem setMem_sp (a : Memory) : (s.setMem a).sp = s.sp := rfl
@[simp] theorem setMem_stk (a : Memory) : (s.setMem a).stk = s.stk := rfl
@[simp] theorem setMem_dt (a : Memory) : (s.setMem a).dt = s.dt := rfl
@[simp] theorem setMem_st (a : Memory) : (s.setMem a).st = s.st := rfl
@[simp] theorem setMem_mem (a : Memory) : (s.setMem a).mem = a := rfl
@[simp] theorem setMem_fb (a : Memory) : (s.setMem a).fb = s.fb := rfl
@[simp] theorem setMem_run (a : Memory) : (s.setMem a).run = s.run := rfl
@[simp] theorem setMem_err (a : Memory) : (s.setMem a).err = s.err := rfl
@[simp] theorem setMem_hostInputs (a : Memory) : (s.setMem a).hostInputs = s.hostInputs := rfl
@[simp] theorem setMem_randomDraws (a : Memory) : (s.setMem a).randomDraws = s.randomDraws := rfl
@[simp] theorem setMem_keyQueries (a : Memory) : (s.setMem a).keyQueries = s.keyQueries := rfl

/-! ### setFb -/
@[simp] theorem setFb_v (a : Framebuffer) : (s.setFb a).v = s.v := rfl
@[simp] theorem setFb_i (a : Framebuffer) : (s.setFb a).i = s.i := rfl
@[simp] theorem setFb_pc (a : Framebuffer) : (s.setFb a).pc = s.pc := rfl
@[simp] theorem setFb_sp (a : Framebuffer) : (s.setFb a).sp = s.sp := rfl
@[simp] theorem setFb_stk (a : Framebuffer) : (s.setFb a).stk = s.stk := rfl
@[simp] theorem setFb_dt (a : Framebuffer) : (s.setFb a).dt = s.dt := rfl
@[simp] theorem setFb_st (a : Framebuffer) : (s.setFb a).st = s.st := rfl
@[simp] theorem setFb_mem (a : Framebuffer) : (s.setFb a).mem = s.mem := rfl
@[simp] theorem setFb_fb (a : Framebuffer) : (s.setFb a).fb = a := rfl
@[simp] theorem setFb_run (a : Framebuffer) : (s.setFb a).run = s.run := rfl
@[simp] theorem setFb_err (a : Framebuffer) : (s.setFb a).err = s.err := rfl
@[simp] theorem setFb_hostInputs (a : Framebuffer) : (s.setFb a).hostInputs = s.hostInputs := rfl
@[simp] theorem setFb_randomDraws (a : Framebuffer) : (s.setFb a).randomDraws = s.randomDraws := rfl
@[simp] theorem setFb_keyQueries (a : Framebuffer) : (s.setFb a).keyQueries = s.keyQueries := rfl

/-! ### setRun -/
@[simp] theorem setRun_v (a : RunState) : (s.setRun a).v = s.v := rfl
@[simp] theorem setRun_i (a : RunState) : (s.setRun a).i = s.i := rfl
@[simp] theorem setRun_pc (a : RunState) : (s.setRun a).pc = s.pc := rfl
@[simp] theorem setRun_sp (a : RunState) : (s.setRun a).sp = s.sp := rfl
@[simp] theorem setRun_stk (a : RunState) : (s.setRun a).stk = s.stk := rfl
@[simp] theorem setRun_dt (a : RunState) : (s.setRun a).dt = s.dt := rfl
@[simp] theorem setRun_st (a : RunState) : (s.setRun a).st = s.st := rfl
@[simp] theorem setRun_mem (a : RunState) : (s.setRun a).mem = s.mem := rfl
@[simp] theorem setRun_fb (a : RunState) : (s.setRun a).fb = s.fb := rfl
@[simp] theorem setRun_run (a : RunState) : (s.setRun a).run = a := rfl
@[simp] theorem setRun_err (a : RunState) : (s.setRun a).err = s.err := rfl
@[simp] theorem setRun_hostInputs (a : RunState) : (s.setRun a).hostInputs = s.hostInputs := rfl
@[simp] theorem setRun_randomDraws (a : RunState) : (s.setRun a).randomDraws = s.randomDraws := rfl
@[simp] theorem setRun_keyQueries (a : RunState) : (s.setRun a).keyQueries = s.keyQueries := rfl

/-! ### setErr -/
@[simp] theorem setErr_v (a : ErrorRecord) : (s.setErr a).v = s.v := rfl
@[simp] theorem setErr_i (a : ErrorRecord) : (s.setErr a).i = s.i := rfl
@[simp] theorem setErr_pc (a : ErrorRecord) : (s.setErr a).pc = s.pc := rfl
@[simp] theorem setErr_sp (a : ErrorRecord) : (s.setErr a).sp = s.sp := rfl
@[simp] theorem setErr_stk (a : ErrorRecord) : (s.setErr a).stk = s.stk := rfl
@[simp] theorem setErr_dt (a : ErrorRecord) : (s.setErr a).dt = s.dt := rfl
@[simp] theorem setErr_st (a : ErrorRecord) : (s.setErr a).st = s.st := rfl
@[simp] theorem setErr_mem (a : ErrorRecord) : (s.setErr a).mem = s.mem := rfl
@[simp] theorem setErr_fb (a : ErrorRecord) : (s.setErr a).fb = s.fb := rfl
@[simp] theorem setErr_run (a : ErrorRecord) : (s.setErr a).run = s.run := rfl
@[simp] theorem setErr_err (a : ErrorRecord) : (s.setErr a).err = a := rfl
@[simp] theorem setErr_hostInputs (a : ErrorRecord) : (s.setErr a).hostInputs = s.hostInputs := rfl
@[simp] theorem setErr_randomDraws (a : ErrorRecord) : (s.setErr a).randomDraws = s.randomDraws := rfl
@[simp] theorem setErr_keyQueries (a : ErrorRecord) : (s.setErr a).keyQueries = s.keyQueries := rfl

/-! ### setHostInputs -/
@[simp] theorem setHostInputs_v (a : List HostInput) : (s.setHostInputs a).v = s.v := rfl
@[simp] theorem setHostInputs_i (a : List HostInput) : (s.setHostInputs a).i = s.i := rfl
@[simp] theorem setHostInputs_pc (a : List HostInput) : (s.setHostInputs a).pc = s.pc := rfl
@[simp] theorem setHostInputs_sp (a : List HostInput) : (s.setHostInputs a).sp = s.sp := rfl
@[simp] theorem setHostInputs_stk (a : List HostInput) : (s.setHostInputs a).stk = s.stk := rfl
@[simp] theorem setHostInputs_dt (a : List HostInput) : (s.setHostInputs a).dt = s.dt := rfl
@[simp] theorem setHostInputs_st (a : List HostInput) : (s.setHostInputs a).st = s.st := rfl
@[simp] theorem setHostInputs_mem (a : List HostInput) : (s.setHostInputs a).mem = s.mem := rfl
@[simp] theorem setHostInputs_fb (a : List HostInput) : (s.setHostInputs a).fb = s.fb := rfl
@[simp] theorem setHostInputs_run (a : List HostInput) : (s.setHostInputs a).run = s.run := rfl
@[simp] theorem setHostInputs_err (a : List HostInput) : (s.setHostInputs a).err = s.err := rfl
@[simp] theorem setHostInputs_hostInputs (a : List HostInput) : (s.setHostInputs a).hostInputs = a := rfl
@[simp] theorem setHostInputs_randomDraws (a : List HostInput) : (s.setHostInputs a).randomDraws = s.randomDraws := rfl
@[simp] theorem setHostInputs_keyQueries (a : List HostInput) : (s.setHostInputs a).keyQueries = s.keyQueries := rfl

/-! ### countRandomDraw -/
@[simp] theorem countRandomDraw_v : s.countRandomDraw.v = s.v := rfl
@[simp] theorem countRandomDraw_i : s.countRandomDraw.i = s.i := rfl
@[simp] theorem countRandomDraw_pc : s.countRandomDraw.pc = s.pc := rfl
@[simp] theorem countRandomDraw_sp : s.countRandomDraw.sp = s.sp := rfl
@[simp] theorem countRandomDraw_stk : s.countRandomDraw.stk = s.stk := rfl
@[simp] theorem countRandomDraw_dt : s.countRandomDraw.dt = s.dt := rfl
@[simp] theorem countRandomDraw_st : s.countRandomDraw.st = s.st := rfl
@[simp] theorem countRandomDraw_mem : s.countRandomDraw.mem = s.mem := rfl
@[simp] theorem countRandomDraw_fb : s.countRandomDraw.fb = s.fb := rfl
@[simp] theorem countRandomDraw_run : s.countRandomDraw.run = s.run := rfl
@[simp] theorem countRandomDraw_err : s.countRandomDraw.err = s.err := rfl
@[simp] theorem countRandomDraw_hostInputs : s.countRandomDraw.hostInputs = s.hostInputs := rfl
@[simp] theorem countRandomDraw_randomDraws : s.countRandomDraw.randomDraws = s.randomDraws + 1 := rfl
@[simp] theorem countRandomDraw_keyQueries : s.countRandomDraw.keyQueries = s.keyQueries := rfl

/-! ### countKeyQuery -/
@[simp] theorem countKeyQuery_v : s.countKeyQuery.v = s.v := rfl
@[simp] theorem countKeyQuery_i : s.countKeyQuery.i = s.i := rfl
@[simp] theorem countKeyQuery_pc : s.countKeyQuery.pc = s.pc := rfl
@[simp] theorem countKeyQuery_sp : s.countKeyQuery.sp = s.sp := rfl
@[simp] theorem countKeyQuery_stk : s.countKeyQuery.stk = s.stk := rfl
@[simp] theorem countKeyQuery_dt : s.countKeyQuery.dt = s.dt := rfl
@[simp] theorem countKeyQuery_st : s.countKeyQuery.st = s.st := rfl
@[simp] theorem countKeyQuery_mem : s.countKeyQuery.mem = s.mem := rfl
@[simp] theorem countKeyQuery_fb : s.countKeyQuery.fb = s.fb := rfl
@[simp] theorem countKeyQuery_run : s.countKeyQuery.run = s.run := rfl
@[simp] theorem countKeyQuery_err : s.countKeyQuery.err = s.err := rfl
@[simp] theorem countKeyQuery_hostInputs : s.countKeyQuery.hostInputs = s.hostInputs := rfl
@[simp] theorem countKeyQuery_randomDraws : s.countKeyQuery.randomDraws = s.randomDraws := rfl
@[simp] theorem countKeyQuery_keyQueries : s.countKeyQuery.keyQueries = s.keyQueries + 1 := rfl

/-! ### writeV -/
@[simp] theorem writeV_v (x : RegIdx) (b : Byte) : (s.writeV x b).v = s.v.set x.toNat b x.isLt := rfl
@[simp] theorem writeV_i (x : RegIdx) (b : Byte) : (s.writeV x b).i = s.i := rfl
@[simp] theorem writeV_pc (x : RegIdx) (b : Byte) : (s.writeV x b).pc = s.pc := rfl
@[simp] theorem writeV_sp (x : RegIdx) (b : Byte) : (s.writeV x b).sp = s.sp := rfl
@[simp] theorem writeV_stk (x : RegIdx) (b : Byte) : (s.writeV x b).stk = s.stk := rfl
@[simp] theorem writeV_dt (x : RegIdx) (b : Byte) : (s.writeV x b).dt = s.dt := rfl
@[simp] theorem writeV_st (x : RegIdx) (b : Byte) : (s.writeV x b).st = s.st := rfl
@[simp] theorem writeV_mem (x : RegIdx) (b : Byte) : (s.writeV x b).mem = s.mem := rfl
@[simp] theorem writeV_fb (x : RegIdx) (b : Byte) : (s.writeV x b).fb = s.fb := rfl
@[simp] theorem writeV_run (x : RegIdx) (b : Byte) : (s.writeV x b).run = s.run := rfl
@[simp] theorem writeV_err (x : RegIdx) (b : Byte) : (s.writeV x b).err = s.err := rfl
@[simp] theorem writeV_hostInputs (x : RegIdx) (b : Byte) : (s.writeV x b).hostInputs = s.hostInputs := rfl
@[simp] theorem writeV_randomDraws (x : RegIdx) (b : Byte) : (s.writeV x b).randomDraws = s.randomDraws := rfl
@[simp] theorem writeV_keyQueries (x : RegIdx) (b : Byte) : (s.writeV x b).keyQueries = s.keyQueries := rfl

/-! ### advance -/
@[simp] theorem advance_v : s.advance.v = s.v := rfl
@[simp] theorem advance_i : s.advance.i = s.i := rfl
@[simp] theorem advance_pc : s.advance.pc = s.pc + 2 := rfl
@[simp] theorem advance_sp : s.advance.sp = s.sp := rfl
@[simp] theorem advance_stk : s.advance.stk = s.stk := rfl
@[simp] theorem advance_dt : s.advance.dt = s.dt := rfl
@[simp] theorem advance_st : s.advance.st = s.st := rfl
@[simp] theorem advance_mem : s.advance.mem = s.mem := rfl
@[simp] theorem advance_fb : s.advance.fb = s.fb := rfl
@[simp] theorem advance_run : s.advance.run = s.run := rfl
@[simp] theorem advance_err : s.advance.err = s.err := rfl
@[simp] theorem advance_hostInputs : s.advance.hostInputs = s.hostInputs := rfl
@[simp] theorem advance_randomDraws : s.advance.randomDraws = s.randomDraws := rfl
@[simp] theorem advance_keyQueries : s.advance.keyQueries = s.keyQueries := rfl

/-! ### skipIf -/
@[simp] theorem skipIf_v (c : Bool) : (s.skipIf c).v = s.v := rfl
@[simp] theorem skipIf_i (c : Bool) : (s.skipIf c).i = s.i := rfl
@[simp] theorem skipIf_pc (c : Bool) : (s.skipIf c).pc = s.pc + if c then 4 else 2 := rfl
@[simp] theorem skipIf_sp (c : Bool) : (s.skipIf c).sp = s.sp := rfl
@[simp] theorem skipIf_stk (c : Bool) : (s.skipIf c).stk = s.stk := rfl
@[simp] theorem skipIf_dt (c : Bool) : (s.skipIf c).dt = s.dt := rfl
@[simp] theorem skipIf_st (c : Bool) : (s.skipIf c).st = s.st := rfl
@[simp] theorem skipIf_mem (c : Bool) : (s.skipIf c).mem = s.mem := rfl
@[simp] theorem skipIf_fb (c : Bool) : (s.skipIf c).fb = s.fb := rfl
@[simp] theorem skipIf_run (c : Bool) : (s.skipIf c).run = s.run := rfl
@[simp] theorem skipIf_err (c : Bool) : (s.skipIf c).err = s.err := rfl
@[simp] theorem skipIf_hostInputs (c : Bool) : (s.skipIf c).hostInputs = s.hostInputs := rfl
@[simp] theorem skipIf_randomDraws (c : Bool) : (s.skipIf c).randomDraws = s.randomDraws := rfl
@[simp] theorem skipIf_keyQueries (c : Bool) : (s.skipIf c).keyQueries = s.keyQueries := rfl

/-! ### raiseError -/
@[simp] theorem raiseError_v (k : ErrorKind) (op ad : Option Word) : (s.raiseError k op ad).v = s.v := rfl
@[simp] theorem raiseError_i (k : ErrorKind) (op ad : Option Word) : (s.raiseError k op ad).i = s.i := rfl
@[simp] theorem raiseError_pc (k : ErrorKind) (op ad : Option Word) : (s.raiseError k op ad).pc = s.pc := rfl
@[simp] theorem raiseError_sp (k : ErrorKind) (op ad : Option Word) : (s.raiseError k op ad).sp = s.sp := rfl
@[simp] theorem raiseError_stk (k : ErrorKind) (op ad : Option Word) : (s.raiseError k op ad).stk = s.stk := rfl
@[simp] theorem raiseError_dt (k : ErrorKind) (op ad : Option Word) : (s.raiseError k op ad).dt = s.dt := rfl
@[simp] theorem raiseError_st (k : ErrorKind) (op ad : Option Word) : (s.raiseError k op ad).st = s.st := rfl
@[simp] theorem raiseError_mem (k : ErrorKind) (op ad : Option Word) : (s.raiseError k op ad).mem = s.mem := rfl
@[simp] theorem raiseError_fb (k : ErrorKind) (op ad : Option Word) : (s.raiseError k op ad).fb = s.fb := rfl
@[simp] theorem raiseError_run (k : ErrorKind) (op ad : Option Word) : (s.raiseError k op ad).run = .halted := rfl
@[simp] theorem raiseError_err (k : ErrorKind) (op ad : Option Word) : (s.raiseError k op ad).err = errorRecord k s.pc op ad := rfl
@[simp] theorem raiseError_hostInputs (k : ErrorKind) (op ad : Option Word) : (s.raiseError k op ad).hostInputs = s.hostInputs := rfl
@[simp] theorem raiseError_randomDraws (k : ErrorKind) (op ad : Option Word) : (s.raiseError k op ad).randomDraws = s.randomDraws := rfl
@[simp] theorem raiseError_keyQueries (k : ErrorKind) (op ad : Option Word) : (s.raiseError k op ad).keyQueries = s.keyQueries := rfl

end Sys2Proof.Machine
end

