-- ==== Sys2Proof/Laws/Ops.lean ====
section
/-! SUPPORT. One lemma per shared operation that says what it can do: registers, the stack unit, range checks, the
framebuffer, flags, the agents' steps. -/

namespace Sys2Proof.Machine

/-! ## Registers -/

theorem readV_writeV (s : State) (x r : RegIdx) (b : Byte) :
    (s.writeV x b).readV r = if r = x then b else s.readV r := by
  simp only [State.readV, writeV_v, Vector.getElem_set]
  by_cases h : r = x
  · simp [h]
  · have : x.toNat ≠ r.toNat := fun e => h (BitVec.eq_of_toNat_eq e.symm)
    simp [h, this]

@[simp] theorem readV_writeV_same (s : State) (x : RegIdx) (b : Byte) : (s.writeV x b).readV x = b := by
  simp [readV_writeV]

theorem readV_writeV_other (s : State) {x r : RegIdx} (h : r ≠ x) (b : Byte) :
    (s.writeV x b).readV r = s.readV r := by simp [readV_writeV, h]

/-- Reading a register sees the register file only. -/
theorem readV_congr {s t : State} (h : t.v = s.v) (r : RegIdx) : t.readV r = s.readV r := by
  simp only [State.readV, h]

/-- The run `V[0..x]` holds the registers in order. -/
theorem length_readRegs (s : State) (x : RegIdx) : (s.readRegs x).length = x.toNat + 1 := by
  have := x.isLt
  simp [State.readRegs, runLength]; omega

theorem getElem_readRegs (s : State) (x : RegIdx) (k : Nat) (hk : k < (s.readRegs x).length) :
    (s.readRegs x)[k] = s.readV (BitVec.ofNat 4 k) := by
  have h1 := length_readRegs s x
  have h2 := x.isLt
  have : (BitVec.ofNat 4 k).toNat = k := by simp; omega
  simp only [State.readRegs, State.readV, List.getElem_take, this]
  rfl

/-- Loading bytes into consecutive registers: each gets its byte, the others keep theirs. -/
theorem readV_writeRegs (s : State) (k : Nat) (bs : List Byte) (h : k + bs.length ≤ 16) (r : RegIdx) :
    (s.writeRegs k bs).readV r =
      if hr : k ≤ r.toNat ∧ r.toNat < k + bs.length then bs[r.toNat - k]'(by omega) else s.readV r := by
  induction bs generalizing s k with
  | nil => simp [State.writeRegs]
  | cons b bs ih =>
    simp only [List.length_cons] at h
    simp only [State.writeRegs, List.length_cons]
    have hk : (BitVec.ofNat 4 k).toNat = k := by simp; omega
    rw [ih _ (k + 1) (by omega), readV_writeV]
    by_cases hrk : r = BitVec.ofNat 4 k
    · have : r.toNat = k := by rw [hrk, hk]
      rw [dif_neg (by omega), dif_pos (by omega)]
      simp [hrk, hk]
    · have hne : r.toNat ≠ k := fun e => hrk (BitVec.eq_of_toNat_eq (by rw [hk, e]))
      by_cases hin : k + 1 ≤ r.toNat ∧ r.toNat < k + 1 + bs.length
      · have h3 : r.toNat - k = (r.toNat - (k + 1)) + 1 := by omega
        rw [dif_pos hin, dif_pos (by omega)]
        simp [h3]
      · rw [dif_neg hin, dif_neg (by omega), if_neg hrk]

/-- Loading registers changes the register file only. -/
theorem writeRegs_eq (s : State) (k : Nat) (bs : List Byte) : ∃ v, s.writeRegs k bs = s.setV v := by
  induction bs generalizing s k with
  | nil => exact ⟨s.v, rfl⟩
  | cons b bs ih =>
    obtain ⟨v, hv⟩ := ih (s.writeV (BitVec.ofNat 4 k) b) (k + 1)
    exact ⟨v, by simp only [State.writeRegs, hv]; rfl⟩

/-! ## Ranges and flags -/

@[simp] theorem outOfRange_iff (a n : Nat) : outOfRange a n = true ↔ 0 < n ∧ 0xFFF < a + n - 1 := by
  simp [outOfRange]

@[simp] theorem outOfRange_false_iff (a n : Nat) : outOfRange a n = false ↔ (0 < n → a + n ≤ Config.memSize) := by
  unfold Config.memSize
  rw [Bool.eq_false_iff, ne_eq, outOfRange_iff]; omega

@[simp] theorem flagByte_true : flagByte true = 1 := rfl
@[simp] theorem flagByte_false : flagByte false = 0 := rfl

/-- A flagged write: the result in `V[x]`, the flag in VF unless `x` is F, `PC + 2`, nothing else. -/
theorem readV_writeFlagged (s : State) (x r : RegIdx) (f : Bool) (b : Byte) :
    (s.writeFlagged x f b).readV r = if r = x then b else if r = flagReg then flagByte f else s.readV r := by
  have : (s.writeFlagged x f b).readV r = ((s.writeV flagReg (flagByte f)).writeV x b).readV r := rfl
  rw [this, readV_writeV, readV_writeV]

/-! ## The stack unit -/

theorem push_eq_none (s : State) (w : Word) : s.push w = none ↔ s.sp = 16 := by
  have := s.sp.isLt
  unfold State.push
  split <;> simp [Fin.ext_iff] <;> omega

theorem push_eq_some {s t : State} {w : Word} (h : s.push w = some t) :
    ∃ hs : s.sp.val < 16, t = s.setStack ⟨s.sp.val + 1, by omega⟩ (s.stk.set s.sp.val w hs) := by
  unfold State.push at h
  split at h
  · rename_i hs; exact ⟨hs, by simpa using h.symm⟩
  · simp at h

theorem pop_eq_none (s : State) : s.pop = none ↔ s.sp = 0 := by
  have h0 : s.sp = 0 ↔ s.sp.val = 0 := Fin.ext_iff
  unfold State.pop
  split
  · simp only [reduceCtorEq, false_iff, h0]; omega
  · simp only [true_iff, h0]; omega

theorem pop_eq_some {s t : State} {w : Word} (h : s.pop = some (w, t)) :
    ∃ hs : 0 < s.sp.val, w = s.stk[s.sp.val - 1]'(by omega) ∧
      t = s.setStack ⟨s.sp.val - 1, by omega⟩ s.stk := by
  unfold State.pop at h
  split at h
  · rename_i hs; simp at h; exact ⟨hs, h.1.symm, h.2.symm⟩
  · simp at h

/-- A pop right after a push gives the pushed value and the count before it. -/
theorem pop_push {s t : State} {w : Word} (h : s.push w = some t) :
    ∃ u, t.pop = some (w, u) ∧ u.sp = s.sp ∧ u.stk = t.stk := by
  obtain ⟨hs, rfl⟩ := push_eq_some h
  exact ⟨(s.setStack ⟨s.sp.val + 1, by omega⟩ (s.stk.set s.sp.val w hs)).setStack s.sp (s.stk.set s.sp.val w hs),
    by simp [State.pop, State.setStack], rfl, rfl⟩

/-! ## The framebuffer -/

/-- A toggle flips its cell and no other. -/
theorem pixel_toggle (fb : Framebuffer) {p : Nat} (hp : p < 2048) (q : Nat) :
    (fb.toggle p).pixel q = if q = p then !fb.pixel q else fb.pixel q := by
  have hrow : p / 64 < 32 := by omega
  unfold Framebuffer.toggle Framebuffer.pixel
  rw [dif_pos hrow]
  by_cases hq : q / 64 < 32
  · simp only [hq, dif_pos]
    by_cases hsame : q / 64 = p / 64
    · have hbit : q % 64 < 64 := Nat.mod_lt _ (by omega)
      simp only [hsame, Vector.getElem_set_self, BitVec.getLsbD_xor, BitVec.getLsbD_twoPow]
      by_cases hpq : q = p
      · simp [hpq, Nat.mod_lt]
      · have : p % 64 ≠ q % 64 := by omega
        simp [hpq, this]
    · have hne : q ≠ p := fun e => hsame (by rw [e])
      rw [Vector.getElem_set_ne _ _ (by omega)]
      simp [hne]
  · have hne : q ≠ p := by omega
    simp [hq, hne]

theorem pixel_blank (p : Nat) : Framebuffer.blank.pixel p = false := by
  unfold Framebuffer.pixel Framebuffer.blank
  split <;> simp

/-- A sprite cell is a cell of the screen. -/
theorem spriteCell_lt (vx vy : Byte) (r c : Nat) : spriteCell vx vy r c < 2048 := by
  unfold spriteCell; omega

/-! ## The agents -/

theorem countDown_toNat (t : Byte) : (countDown t).toNat = t.toNat - 1 := by
  unfold countDown
  split
  · subst_vars; rfl
  · rename_i h
    have : t.toNat ≠ 0 := fun e => h (BitVec.eq_of_toNat_eq e)
    have h2 := t.isLt
    simp [BitVec.toNat_sub]; omega

/-- A key event completes a wait. -/
theorem keyStep_awaiting {s : State} {r : RegIdx} (h : s.run = .awaitingKey r) (k : Key) :
    s.keyStep k = ((s.writeV r (k.setWidth 8)).advance).setRun .running := by
  unfold State.keyStep; rw [h]

/-- A key event outside a wait is dropped. -/
theorem keyStep_other {s : State} (h : ∀ r, s.run ≠ .awaitingKey r) (k : Key) : s.keyStep k = s := by
  unfold State.keyStep
  split <;> simp_all

/-- What the fetch can answer. -/
theorem fetch_eq_some {s : State} (h : s.pc.toNat ≤ 0xFFE) :
    s.fetch = some (wordOfBytes (s.readByte s.pc.toNat) (s.readByte (s.pc.toNat + 1))) := by
  unfold State.fetch lastFetch; rw [if_pos h]; rfl

theorem fetch_eq_none {s : State} : s.fetch = none ↔ 0xFFE < s.pc.toNat := by
  unfold State.fetch lastFetch; split <;> simp <;> omega

end Sys2Proof.Machine
end

