-- ==== Sys2Proof/Laws/Display.lean ====
section
/-! SUPPORT. The sprite unit as one list of cells: drawing is toggling them one after another, and what toggling a list of
cells does. -/

namespace Sys2Proof.Machine

/-- Toggle cells one after another, colliding where a cell was on. -/
def Blit.toggleAll (acc : Blit) (cells : List Nat) : Blit :=
  cells.foldl (fun a p => { fb := a.fb.toggle p, hit := a.hit || a.fb.pixel p }) acc

/-- The cells that the set bits of one row byte are drawn on, left to right. -/
def rowCells (vx vy : Byte) (r : Nat) (b : Byte) : List Nat :=
  ((List.range 8).filter (spriteBit b)).map (spriteCell vx vy r)

/-- The cells of the rows from row `r` on. -/
def spriteCells (vx vy : Byte) (r : Nat) : List Byte → List Nat
  | [] => []
  | b :: bs => rowCells vx vy r b ++ spriteCells vx vy (r + 1) bs

theorem toggleAll_append (acc : Blit) (ps qs : List Nat) :
    acc.toggleAll (ps ++ qs) = (acc.toggleAll ps).toggleAll qs := by simp [Blit.toggleAll]

/-- Columns whose bit is set toggle, the others do nothing. -/
theorem foldl_blitPixel (vx vy : Byte) (r : Nat) (b : Byte) (acc : Blit) (cs : List Nat) :
    cs.foldl (blitPixel vx vy r b) acc = acc.toggleAll ((cs.filter (spriteBit b)).map (spriteCell vx vy r)) := by
  induction cs generalizing acc with
  | nil => rfl
  | cons c cs ih =>
    rw [List.foldl_cons, ih]
    by_cases h : spriteBit b c = true
    · simp [blitPixel, h, Blit.toggleAll]
    · simp [blitPixel, h]

/-- Drawing rows is toggling their cells in order. -/
theorem blitRows_eq (vx vy : Byte) (r : Nat) (rows : List Byte) (acc : Blit) :
    blitRows vx vy r rows acc = acc.toggleAll (spriteCells vx vy r rows) := by
  induction rows generalizing r acc with
  | nil => rfl
  | cons b rows ih =>
    rw [blitRows, ih, spriteCells, toggleAll_append]
    exact congrArg (fun a => Blit.toggleAll a _) (foldl_blitPixel vx vy r b acc _)

/-- The cells of a sprite are what its set bits land on (R211). -/
theorem mem_spriteCells (vx vy : Byte) (r : Nat) (rows : List Byte) (p : Nat) :
    p ∈ spriteCells vx vy r rows ↔
      ∃ (k : Nat) (hk : k < rows.length) (c : Nat), c < 8 ∧ spriteBit (rows[k]'hk) c = true ∧ spriteCell vx vy (r + k) c = p := by
  induction rows generalizing r with
  | nil => simp [spriteCells]
  | cons b rows ih =>
    simp only [spriteCells, List.mem_append, ih, rowCells, List.mem_map, List.mem_filter, List.mem_range]
    constructor
    · rintro (⟨c, ⟨hc, hb⟩, rfl⟩ | ⟨k, hk, c, hc, hb, rfl⟩)
      · exact ⟨0, by simp, c, hc, hb, rfl⟩
      · exact ⟨k + 1, by simpa using hk, c, hc, hb, congrArg (fun n => spriteCell vx vy n c) (by omega)⟩
    · rintro ⟨k, hk, c, hc, hb, rfl⟩
      cases k with
      | zero => exact .inl ⟨c, ⟨hc, hb⟩, rfl⟩
      | succ k =>
        exact .inr ⟨k, by simpa using hk, c, hc, hb, congrArg (fun n => spriteCell vx vy n c) (by omega)⟩

/-- Toggling cells that are all different: each flips, the others stay, and the collision flag says whether one was on. -/
theorem toggleAll_spec {cells : List Nat} (acc : Blit) (hd : cells.Nodup) (hb : ∀ p, p ∈ cells → p < 2048) :
    (∀ q, (acc.toggleAll cells).fb.pixel q = if q ∈ cells then !acc.fb.pixel q else acc.fb.pixel q) ∧
      (acc.toggleAll cells).hit = (acc.hit || cells.any acc.fb.pixel) := by
  induction cells generalizing acc with
  | nil => simp [Blit.toggleAll]
  | cons p cells ih =>
    have hp : p < 2048 := hb p (by simp)
    obtain ⟨hnot, hd⟩ := List.nodup_cons.1 hd
    obtain ⟨hpix, hhit⟩ := ih { fb := acc.fb.toggle p, hit := acc.hit || acc.fb.pixel p } hd
      (fun q hq => hb q (List.mem_cons_of_mem _ hq))
    simp only [Blit.toggleAll, List.foldl_cons] at hpix hhit ⊢
    refine ⟨fun q => ?_, ?_⟩
    · rw [hpix q, pixel_toggle acc.fb hp q]
      by_cases hqp : q = p
      · subst hqp; simp [hnot]
      · simp [hqp]
    · rw [hhit, List.any_cons, Bool.or_assoc]
      congr 2
      rw [Bool.eq_iff_iff]
      simp only [List.any_eq_true]
      refine exists_congr fun q => and_congr_right fun hq => ?_
      rw [pixel_toggle acc.fb hp q, if_neg (by rintro rfl; exact hnot hq)]

theorem spriteCells_lt {vx vy : Byte} {r p : Nat} {rows : List Byte} (h : p ∈ spriteCells vx vy r rows) : p < 2048 := by
  obtain ⟨k, _, c, _, _, rfl⟩ := (mem_spriteCells vx vy r rows p).1 h
  exact spriteCell_lt vx vy (r + k) c

end Sys2Proof.Machine
end

