-- ==== Sys2Proof/Laws/Encoding.lean ====
section
/-! SUPPORT. The fields of an encoded word, the bytes of a word, and that every instruction is well formed. -/

namespace Sys2Proof

/-- Operands are fields of their exact width, so every instruction is well formed. -/
theorem wellFormed_all (i : Instr) : i.wellFormed = true := by
  have h4 (x : BitVec 4) : x.toNat < 16 := x.isLt
  have h8 (x : BitVec 8) : x.toNat < 256 := x.isLt
  have h12 (x : BitVec 12) : x.toNat < 4096 := x.isLt
  cases i <;> simp [Instr.wellFormed, Instr.operandFields, OperandField.fits, h4, h8, h12]

/-! ## The fields of the three word forms -/

variable (t x y n : BitVec 4) (nn : Byte) (nnn : Addr12)

@[simp] theorem fieldT_wordNNN : fieldT (wordNNN t nnn) = t := by
  simp only [fieldT, wordNNN]
  apply BitVec.eq_of_getLsbD_eq
  intro i hi
  rw [BitVec.getLsbD_extractLsb']
  simp only [BitVec.getLsbD_append]
  rw [decide_eq_true hi, Bool.true_and]
  repeat' split
  all_goals first | omega | (congr 1; omega)

@[simp] theorem fieldNNN_wordNNN : fieldNNN (wordNNN t nnn) = nnn := by
  simp only [fieldNNN, wordNNN]
  apply BitVec.eq_of_getLsbD_eq
  intro i hi
  rw [BitVec.getLsbD_extractLsb']
  simp only [BitVec.getLsbD_append]
  rw [decide_eq_true hi, Bool.true_and]
  repeat' split
  all_goals first | omega | (congr 1; omega)

@[simp] theorem fieldT_wordXNN : fieldT (wordXNN t x nn) = t := by
  simp only [fieldT, wordXNN]
  apply BitVec.eq_of_getLsbD_eq
  intro i hi
  rw [BitVec.getLsbD_extractLsb']
  simp only [BitVec.getLsbD_append]
  rw [decide_eq_true hi, Bool.true_and]
  repeat' split
  all_goals first | omega | (congr 1; omega)

@[simp] theorem fieldX_wordXNN : fieldX (wordXNN t x nn) = x := by
  simp only [fieldX, wordXNN]
  apply BitVec.eq_of_getLsbD_eq
  intro i hi
  rw [BitVec.getLsbD_extractLsb']
  simp only [BitVec.getLsbD_append]
  rw [decide_eq_true hi, Bool.true_and]
  repeat' split
  all_goals first | omega | (congr 1; omega)

@[simp] theorem fieldNN_wordXNN : fieldNN (wordXNN t x nn) = nn := by
  simp only [fieldNN, wordXNN]
  apply BitVec.eq_of_getLsbD_eq
  intro i hi
  rw [BitVec.getLsbD_extractLsb']
  simp only [BitVec.getLsbD_append]
  rw [decide_eq_true hi, Bool.true_and]
  repeat' split
  all_goals first | omega | (congr 1; omega)

@[simp] theorem fieldT_wordXYN : fieldT (wordXYN t x y n) = t := by
  simp only [fieldT, wordXYN]
  apply BitVec.eq_of_getLsbD_eq
  intro i hi
  rw [BitVec.getLsbD_extractLsb']
  simp only [BitVec.getLsbD_append]
  rw [decide_eq_true hi, Bool.true_and]
  repeat' split
  all_goals first | omega | (congr 1; omega)

@[simp] theorem fieldX_wordXYN : fieldX (wordXYN t x y n) = x := by
  simp only [fieldX, wordXYN]
  apply BitVec.eq_of_getLsbD_eq
  intro i hi
  rw [BitVec.getLsbD_extractLsb']
  simp only [BitVec.getLsbD_append]
  rw [decide_eq_true hi, Bool.true_and]
  repeat' split
  all_goals first | omega | (congr 1; omega)

@[simp] theorem fieldY_wordXYN : fieldY (wordXYN t x y n) = y := by
  simp only [fieldY, wordXYN]
  apply BitVec.eq_of_getLsbD_eq
  intro i hi
  rw [BitVec.getLsbD_extractLsb']
  simp only [BitVec.getLsbD_append]
  rw [decide_eq_true hi, Bool.true_and]
  repeat' split
  all_goals first | omega | (congr 1; omega)

@[simp] theorem fieldN_wordXYN : fieldN (wordXYN t x y n) = n := by
  simp only [fieldN, wordXYN]
  apply BitVec.eq_of_getLsbD_eq
  intro i hi
  rw [BitVec.getLsbD_extractLsb']
  simp only [BitVec.getLsbD_append]
  rw [decide_eq_true hi, Bool.true_and]
  repeat' split
  all_goals first | omega | (congr 1; omega)

/-! ## A word is its fields -/

theorem wordNNN_fields (op : Word) : wordNNN (fieldT op) (fieldNNN op) = op := by
  simp only [wordNNN, fieldT, fieldNNN]
  apply BitVec.eq_of_getLsbD_eq
  intro i hi
  simp only [BitVec.getLsbD_append, BitVec.getLsbD_extractLsb']
  repeat' split
  all_goals (rw [decide_eq_true (by omega), Bool.true_and]; congr 1; omega)

theorem wordXNN_fields (op : Word) : wordXNN (fieldT op) (fieldX op) (fieldNN op) = op := by
  simp only [wordXNN, fieldT, fieldX, fieldNN]
  apply BitVec.eq_of_getLsbD_eq
  intro i hi
  simp only [BitVec.getLsbD_append, BitVec.getLsbD_extractLsb']
  repeat' split
  all_goals (rw [decide_eq_true (by omega), Bool.true_and]; congr 1; omega)

theorem wordXYN_fields (op : Word) : wordXYN (fieldT op) (fieldX op) (fieldY op) (fieldN op) = op := by
  simp only [wordXYN, fieldT, fieldX, fieldY, fieldN]
  apply BitVec.eq_of_getLsbD_eq
  intro i hi
  simp only [BitVec.getLsbD_append, BitVec.getLsbD_extractLsb']
  repeat' split
  all_goals (rw [decide_eq_true (by omega), Bool.true_and]; congr 1; omega)

/-- The two bytes of a word give the word back (R63). -/
theorem wordOfBytes_bytes (op : Word) : wordOfBytes (highByte op) (lowByte op) = op := by
  simp only [wordOfBytes, highByte, lowByte]
  apply BitVec.eq_of_getLsbD_eq
  intro i hi
  simp only [BitVec.getLsbD_append, BitVec.getLsbD_extractLsb']
  repeat' split
  all_goals (rw [decide_eq_true (by omega), Bool.true_and]; congr 1; omega)

/-- `Unknown` carries the word that was decoded (R94). -/
theorem unknown_carries_word {op w : Word} (h : decodeWord op = .unknown w) : w = op := by
  unfold decodeWord at h
  split at h <;> first
    | cases h
    | (simp only [decode0, decode5, decode9] at h
       repeat' split at h
       all_goals cases h <;> rfl)
    | (simp only [decode8, decodeE, decodeF] at h
       split at h
       all_goals cases h <;> rfl)

/-! ## The literal bits of a word under the masks of R92 -/

theorem and_maskT (op : Word) : op &&& 0xF000 = wordNNN (fieldT op) 0 := by
  simp only [wordNNN, fieldT]
  apply BitVec.eq_of_getLsbD_eq
  intro i hi
  rw [BitVec.getLsbD_and]
  simp only [BitVec.getLsbD_append, BitVec.getLsbD_extractLsb']
  interval_cases i <;> simp

theorem and_maskTN (op : Word) : op &&& 0xF00F = wordXYN (fieldT op) 0 0 (fieldN op) := by
  simp only [wordXYN, fieldT, fieldN]
  apply BitVec.eq_of_getLsbD_eq
  intro i hi
  rw [BitVec.getLsbD_and]
  simp only [BitVec.getLsbD_append, BitVec.getLsbD_extractLsb']
  interval_cases i <;> simp

theorem and_maskTNN (op : Word) : op &&& 0xF0FF = wordXNN (fieldT op) 0 (fieldNN op) := by
  simp only [wordXNN, fieldT, fieldNN]
  apply BitVec.eq_of_getLsbD_eq
  intro i hi
  rw [BitVec.getLsbD_and]
  simp only [BitVec.getLsbD_append, BitVec.getLsbD_extractLsb']
  interval_cases i <;> simp

end Sys2Proof
end

