-- ==== Sys2Proof/Laws/PerInstr.lean ====
section
/-! SUPPORT. Family RowMatch: every instruction's encoded word matches the row of the opcode map that carries its mnemonic
(spec 30_encoding.md R96, R103). One lemma a constructor. -/

namespace Sys2Proof.Laws.RowMatch

/-- The word of an instruction matches its row of R96. -/
def Statement (i : Instr) : Prop :=
  ∃ row, row ∈ opcodeTable ∧ row.mnemonic = i.mnemonic ∧ rowMatches row (encode i) = true

/-- The three masks, each with the literal fields it keeps. -/
theorem matches_maskT {row : OpcodeRow} {op : Word} (hm : row.mask = 0xF000)
    (hv : wordNNN (fieldT op) 0 = row.value) : rowMatches row op = true := by
  unfold rowMatches; rw [hm, and_maskT, hv]; exact beq_self_eq_true _

theorem matches_maskTN {row : OpcodeRow} {op : Word} (hm : row.mask = 0xF00F)
    (hv : wordXYN (fieldT op) 0 0 (fieldN op) = row.value) : rowMatches row op = true := by
  unfold rowMatches; rw [hm, and_maskTN, hv]; exact beq_self_eq_true _

theorem matches_maskTNN {row : OpcodeRow} {op : Word} (hm : row.mask = 0xF0FF)
    (hv : wordXNN (fieldT op) 0 (fieldNN op) = row.value) : rowMatches row op = true := by
  unfold rowMatches; rw [hm, and_maskTNN, hv]; exact beq_self_eq_true _

theorem cls : Statement .cls :=
  ⟨⟨"CLS", 0x00E0, 0xFFFF, .fixed⟩, by decide, rfl, by decide⟩

theorem ret : Statement .ret :=
  ⟨⟨"RET", 0x00EE, 0xFFFF, .fixed⟩, by decide, rfl, by decide⟩

theorem jp (nnn : Addr12) : Statement (.jp nnn) :=
  ⟨⟨"JP", 0x1000, 0xF000, .nnn⟩, by decide, rfl, matches_maskT rfl (by simp [encode]; rfl)⟩

theorem call (nnn : Addr12) : Statement (.call nnn) :=
  ⟨⟨"CALL", 0x2000, 0xF000, .nnn⟩, by decide, rfl, matches_maskT rfl (by simp [encode]; rfl)⟩

theorem se (x : RegIdx) (nn : Byte) : Statement (.se x nn) :=
  ⟨⟨"SE", 0x3000, 0xF000, .xnn⟩, by decide, rfl, matches_maskT rfl (by simp [encode]; rfl)⟩

theorem sne (x : RegIdx) (nn : Byte) : Statement (.sne x nn) :=
  ⟨⟨"SNE", 0x4000, 0xF000, .xnn⟩, by decide, rfl, matches_maskT rfl (by simp [encode]; rfl)⟩

theorem ser (x : RegIdx) (y : RegIdx) : Statement (.ser x y) :=
  ⟨⟨"SER", 0x5000, 0xF00F, .xyk⟩, by decide, rfl, matches_maskTN rfl (by simp [encode]; rfl)⟩

theorem ldb (x : RegIdx) (nn : Byte) : Statement (.ldb x nn) :=
  ⟨⟨"LDB", 0x6000, 0xF000, .xnn⟩, by decide, rfl, matches_maskT rfl (by simp [encode]; rfl)⟩

theorem addb (x : RegIdx) (nn : Byte) : Statement (.addb x nn) :=
  ⟨⟨"ADDB", 0x7000, 0xF000, .xnn⟩, by decide, rfl, matches_maskT rfl (by simp [encode]; rfl)⟩

theorem mov (x : RegIdx) (y : RegIdx) : Statement (.mov x y) :=
  ⟨⟨"MOV", 0x8000, 0xF00F, .xyk⟩, by decide, rfl, matches_maskTN rfl (by simp [encode]; rfl)⟩

theorem or (x : RegIdx) (y : RegIdx) : Statement (.or x y) :=
  ⟨⟨"OR", 0x8001, 0xF00F, .xyk⟩, by decide, rfl, matches_maskTN rfl (by simp [encode]; rfl)⟩

theorem and (x : RegIdx) (y : RegIdx) : Statement (.and x y) :=
  ⟨⟨"AND", 0x8002, 0xF00F, .xyk⟩, by decide, rfl, matches_maskTN rfl (by simp [encode]; rfl)⟩

theorem xor (x : RegIdx) (y : RegIdx) : Statement (.xor x y) :=
  ⟨⟨"XOR", 0x8003, 0xF00F, .xyk⟩, by decide, rfl, matches_maskTN rfl (by simp [encode]; rfl)⟩

theorem add (x : RegIdx) (y : RegIdx) : Statement (.add x y) :=
  ⟨⟨"ADD", 0x8004, 0xF00F, .xyk⟩, by decide, rfl, matches_maskTN rfl (by simp [encode]; rfl)⟩

theorem sub (x : RegIdx) (y : RegIdx) : Statement (.sub x y) :=
  ⟨⟨"SUB", 0x8005, 0xF00F, .xyk⟩, by decide, rfl, matches_maskTN rfl (by simp [encode]; rfl)⟩

theorem shr (x : RegIdx) (y : RegIdx) : Statement (.shr x y) :=
  ⟨⟨"SHR", 0x8006, 0xF00F, .xyk⟩, by decide, rfl, matches_maskTN rfl (by simp [encode]; rfl)⟩

theorem subn (x : RegIdx) (y : RegIdx) : Statement (.subn x y) :=
  ⟨⟨"SUBN", 0x8007, 0xF00F, .xyk⟩, by decide, rfl, matches_maskTN rfl (by simp [encode]; rfl)⟩

theorem shl (x : RegIdx) (y : RegIdx) : Statement (.shl x y) :=
  ⟨⟨"SHL", 0x800E, 0xF00F, .xyk⟩, by decide, rfl, matches_maskTN rfl (by simp [encode]; rfl)⟩

theorem sner (x : RegIdx) (y : RegIdx) : Statement (.sner x y) :=
  ⟨⟨"SNER", 0x9000, 0xF00F, .xyk⟩, by decide, rfl, matches_maskTN rfl (by simp [encode]; rfl)⟩

theorem ldix (nnn : Addr12) : Statement (.ldix nnn) :=
  ⟨⟨"LDIX", 0xA000, 0xF000, .nnn⟩, by decide, rfl, matches_maskT rfl (by simp [encode]; rfl)⟩

theorem jpv0 (nnn : Addr12) : Statement (.jpv0 nnn) :=
  ⟨⟨"JPV0", 0xB000, 0xF000, .nnn⟩, by decide, rfl, matches_maskT rfl (by simp [encode]; rfl)⟩

theorem rnd (x : RegIdx) (nn : Byte) : Statement (.rnd x nn) :=
  ⟨⟨"RND", 0xC000, 0xF000, .xnn⟩, by decide, rfl, matches_maskT rfl (by simp [encode]; rfl)⟩

theorem drw (x : RegIdx) (y : RegIdx) (n : Nibble) : Statement (.drw x y n) :=
  ⟨⟨"DRW", 0xD000, 0xF000, .xyn⟩, by decide, rfl, matches_maskT rfl (by simp [encode]; rfl)⟩

theorem skp (x : RegIdx) : Statement (.skp x) :=
  ⟨⟨"SKP", 0xE09E, 0xF0FF, .xkk⟩, by decide, rfl, matches_maskTNN rfl (by simp [encode]; rfl)⟩

theorem sknp (x : RegIdx) : Statement (.sknp x) :=
  ⟨⟨"SKNP", 0xE0A1, 0xF0FF, .xkk⟩, by decide, rfl, matches_maskTNN rfl (by simp [encode]; rfl)⟩

theorem getdt (x : RegIdx) : Statement (.getdt x) :=
  ⟨⟨"GETDT", 0xF007, 0xF0FF, .xkk⟩, by decide, rfl, matches_maskTNN rfl (by simp [encode]; rfl)⟩

theorem waitk (x : RegIdx) : Statement (.waitk x) :=
  ⟨⟨"WAITK", 0xF00A, 0xF0FF, .xkk⟩, by decide, rfl, matches_maskTNN rfl (by simp [encode]; rfl)⟩

theorem setdt (x : RegIdx) : Statement (.setdt x) :=
  ⟨⟨"SETDT", 0xF015, 0xF0FF, .xkk⟩, by decide, rfl, matches_maskTNN rfl (by simp [encode]; rfl)⟩

theorem setst (x : RegIdx) : Statement (.setst x) :=
  ⟨⟨"SETST", 0xF018, 0xF0FF, .xkk⟩, by decide, rfl, matches_maskTNN rfl (by simp [encode]; rfl)⟩

theorem addix (x : RegIdx) : Statement (.addix x) :=
  ⟨⟨"ADDIX", 0xF01E, 0xF0FF, .xkk⟩, by decide, rfl, matches_maskTNN rfl (by simp [encode]; rfl)⟩

theorem font (x : RegIdx) : Statement (.font x) :=
  ⟨⟨"FONT", 0xF029, 0xF0FF, .xkk⟩, by decide, rfl, matches_maskTNN rfl (by simp [encode]; rfl)⟩

theorem bcd (x : RegIdx) : Statement (.bcd x) :=
  ⟨⟨"BCD", 0xF033, 0xF0FF, .xkk⟩, by decide, rfl, matches_maskTNN rfl (by simp [encode]; rfl)⟩

theorem stm (x : RegIdx) : Statement (.stm x) :=
  ⟨⟨"STM", 0xF055, 0xF0FF, .xkk⟩, by decide, rfl, matches_maskTNN rfl (by simp [encode]; rfl)⟩

theorem ldm (x : RegIdx) : Statement (.ldm x) :=
  ⟨⟨"LDM", 0xF065, 0xF0FF, .xkk⟩, by decide, rfl, matches_maskTNN rfl (by simp [encode]; rfl)⟩

end Sys2Proof.Laws.RowMatch
end

