-- ==== Sys2Proof/Laws/Step.lean ====
section
/-! SUPPORT. What a step is, case by case of what the host delivers next, and what an instruction step is, case by case of the
run state and the fetch. Later proofs cite these and do not unfold the step. -/

namespace Sys2Proof.Machine

/-- A word of two bytes as a number (R63). -/
theorem toNat_wordOfBytes (hi lo : Byte) : (wordOfBytes hi lo).toNat = 256 * hi.toNat + lo.toNat := by
  have e : (wordOfBytes hi lo).toNat = hi.toNat <<< 8 ||| lo.toNat := BitVec.toNat_append hi lo
  rw [e, ← Nat.shiftLeft_add_eq_or_of_lt lo.isLt, Nat.shiftLeft_eq]; omega

theorem step_requested {s s0 : State} (h : StepRequested s s0) : step s = instructionStep s0 := by
  unfold step cycle
  rcases h with ⟨h, rfl⟩ | ⟨rest, h, rfl⟩ <;> rw [h]

theorem step_tick {s : State} {rest : List HostInput} (h : s.hostInputs = .tick :: rest) :
    step s = .next (s.setHostInputs rest).tickStep := by unfold step cycle; rw [h]

theorem step_keyEvent {s : State} {k : Key} {rest : List HostInput} (h : s.hostInputs = .keyEvent k :: rest) :
    step s = .next ((s.setHostInputs rest).keyStep k) := by unfold step cycle; rw [h]

theorem step_reset {s : State} {program : List Byte} {rest : List HostInput}
    (h : s.hostInputs = .reset program :: rest) :
    step s = .next ((s.setHostInputs rest).hostReset program) := by unfold step cycle; rw [h]

/-- Whatever the host delivers, a step is one of the four cases above. -/
theorem step_cases (s : State) :
    (∃ s0, StepRequested s s0 ∧ step s = instructionStep s0) ∨
    (∃ rest, s.hostInputs = .tick :: rest ∧ step s = .next (s.setHostInputs rest).tickStep) ∨
    (∃ k rest, s.hostInputs = .keyEvent k :: rest ∧ step s = .next ((s.setHostInputs rest).keyStep k)) ∨
    ∃ program rest, s.hostInputs = .reset program :: rest ∧
      step s = .next ((s.setHostInputs rest).hostReset program) := by
  cases h : s.hostInputs with
  | nil => exact .inl ⟨s, .inl ⟨h, rfl⟩, step_requested (.inl ⟨h, rfl⟩)⟩
  | cons e rest =>
    cases e with
    | stepRequest => exact .inl ⟨_, .inr ⟨rest, h, rfl⟩, step_requested (.inr ⟨rest, h, rfl⟩)⟩
    | tick => exact .inr (.inl ⟨rest, rfl, step_tick h⟩)
    | keyEvent k => exact .inr (.inr (.inl ⟨k, rest, rfl, step_keyEvent h⟩))
    | reset p => exact .inr (.inr (.inr ⟨p, rest, rfl, step_reset h⟩))

/-- A requested step begins in a state that differs in the queued host inputs only. -/
theorem stepRequested_same {s s0 : State} (h : StepRequested s s0) :
    ∃ rest, s0 = s.setHostInputs rest := by
  rcases h with ⟨_, rfl⟩ | ⟨rest, _, rfl⟩
  · exact ⟨s0.hostInputs, rfl⟩
  · exact ⟨rest, rfl⟩

theorem instructionStep_idle {s : State} (h : s.run ≠ .running) : instructionStep s = .next s := by
  unfold instructionStep
  split <;> simp_all

theorem instructionStep_noFetch {s : State} (hr : s.run = .running) (hp : 0xFFE < s.pc.toNat) :
    instructionStep s = .next (s.raiseError .outOfRange none (some s.pc)) := by
  unfold instructionStep
  rw [hr, fetch_eq_none.2 hp]

theorem instructionStep_fetch {s : State} {op : Word} (hr : s.run = .running) (hf : s.fetch = some op) :
    instructionStep s = runWord op s := by
  unfold instructionStep
  rw [hr, hf]

/-- An instruction step is idle, a failed fetch, an unknown word, or an instruction. -/
theorem instructionStep_cases (s : State) :
    (s.run ≠ .running ∧ instructionStep s = .next s) ∨
    (s.run = .running ∧ 0xFFE < s.pc.toNat ∧
      instructionStep s = .next (s.raiseError .outOfRange none (some s.pc))) ∨
    (∃ op, s.run = .running ∧ s.pc.toNat ≤ 0xFFE ∧ s.fetch = some op ∧ decodeWord op = .unknown op ∧
      instructionStep s = .next (s.takeUnknown Config.unknownPolicy op)) ∨
    ∃ op i, s.run = .running ∧ s.pc.toNat ≤ 0xFFE ∧ s.fetch = some op ∧ decodeWord op = .known i ∧
      instructionStep s = exec i s := by
  by_cases hr : s.run = .running
  · by_cases hp : s.pc.toNat ≤ 0xFFE
    · have hf := fetch_eq_some hp
      generalize wordOfBytes (s.readByte s.pc.toNat) (s.readByte (s.pc.toNat + 1)) = op at hf
      have hs := instructionStep_fetch hr hf
      unfold runWord at hs
      cases hd : decodeWord op with
      | known i => rw [hd] at hs; exact .inr (.inr (.inr ⟨op, i, hr, hp, hf, hd, hs⟩))
      | unknown w =>
        have hw := unknown_carries_word hd
        subst hw
        rw [hd] at hs
        exact .inr (.inr (.inl ⟨w, hr, hp, hf, hd, hs⟩))
    · exact .inr (.inl ⟨hr, by omega, instructionStep_noFetch hr (by omega)⟩)
  · exact .inl ⟨hr, instructionStep_idle hr⟩

/-- The fetch of a state is the word its two bytes spell (R63, R124). -/
theorem fetch_of_fetchedWord {s : State} {op : Word} (h : FetchedWord s op) : s.fetch = some op := by
  rw [fetch_eq_some h.1]
  congr 1
  apply BitVec.eq_of_toNat_eq
  rw [toNat_wordOfBytes, h.2]

/-- Where a running core meets the obligations of a well-formed program (R298), its step is `exec` of a known instruction
that meets its own. -/
theorem instructionStep_of_stepObligations {s : State} (hr : s.run = .running) (h : stepObligations s = true) :
    ∃ op i, s.fetch = some op ∧ decodeWord op = .known i ∧ programObligations i s = true ∧ instructionStep s = exec i s := by
  unfold stepObligations at h
  cases hf : s.fetch with
  | none => simp [hf] at h
  | some op =>
    cases hd : decodeWord op with
    | unknown w => simp [hf, hd] at h
    | known i => exact ⟨op, i, rfl, hd, by simpa [hf, hd] using h, by rw [instructionStep_fetch hr hf, runWord, hd]⟩

/-- Such an instruction raises nothing, so none of the errors of R250 is met. -/
theorem raises_of_programObligations {i : Instr} {s : State} (h : programObligations i s = true) : raises i s = none := by
  simp only [programObligations, Bool.and_eq_true, Option.isNone_iff_eq_none] at h
  exact h.2

end Sys2Proof.Machine
end

