-- ==== Sys2Proof/Tests/Slice0.lean ====
section
/-! SUPPORT. Tests. Expected words come from the patterns of 30_encoding.md R96, expected results from the vectors of
95_test_vectors.md, whose number each test names. Then, for every statement with hypotheses, a witness that they can be met
together, clause by clause, at the ends of their ranges. -/

namespace Sys2Proof.Tests

open Sys2Proof Sys2Proof.Machine

/-! ## Well-formedness -/

theorem test_wide_register_selector_refused : OperandField.fits ⟨16, 4⟩ = false := by decide
theorem test_wide_immediate_refused : OperandField.fits ⟨256, 8⟩ = false := by decide
theorem test_wide_address_refused : OperandField.fits ⟨4096, 12⟩ = false := by decide
theorem test_widest_operands_accepted : (Instr.drw 0xF 0xF 0xF).wellFormed && (Instr.jp 0xFFF).wellFormed = true := by decide

/-- R292: 3585 bytes do not fit, 3584 do. -/
theorem test_program_of_3585_bytes_refused : programFits (List.replicate 3585 0) = false := by
  rw [programFits, List.length_replicate]; decide
theorem test_program_of_3584_bytes_accepted : programFits (List.replicate 3584 0) = true := by
  rw [programFits, List.length_replicate]; decide

/-- A value outside the mask, and a mask that is not the format's. -/
theorem test_ill_formed_rows_refused :
    rowWellFormed ⟨"MOV", 0x8010, 0xF00F, .xyk⟩ = false ∧ rowWellFormed ⟨"MOV", 0x8000, 0xF0FF, .xyk⟩ = false := by decide
theorem test_opcode_rows_well_formed : opcodeTable.all rowWellFormed = true := by decide

/-- A listed byte equal to what is read when nothing is listed, a wrong order, an address that does not exist. -/
theorem test_ill_formed_memory_refused :
    Memory.wf [(0x300, 0)] = false ∧ Memory.wf [(0x301, 1), (0x300, 1)] = false ∧ Memory.wf [(0x1000, 1)] = false := by
  decide

/-! ## Decoding: words written from the patterns of R96, two bytes or bit by bit -/

theorem test_decode_flow :
    decodeWord 0x00EE = .known .ret ∧ decodeWord 0x1ABC = .known (.jp 0xABC) ∧ decodeWord 0x2300 = .known (.call 0x300) ∧
    decodeWord 0x332A = .known (.se 3 0x2A) ∧ decodeWord 0x432B = .known (.sne 3 0x2B) ∧
    decodeWord 0x5120 = .known (.ser 1 2) ∧ decodeWord 0b1001000100100000 = .known (.sner 1 2) ∧
    decodeWord 0xBFFE = .known (.jpv0 0xFFE) := by decide

theorem test_decode_alu :
    decodeWord 0x6A7F = .known (.ldb 0xA 0x7F) ∧ decodeWord 0x7102 = .known (.addb 1 2) ∧
    decodeWord 0x8120 = .known (.mov 1 2) ∧ decodeWord 0x8121 = .known (.or 1 2) ∧ decodeWord 0x8122 = .known (.and 1 2) ∧
    decodeWord 0x8123 = .known (.xor 1 2) ∧ decodeWord 0b1000000100100100 = .known (.add 1 2) ∧
    decodeWord 0x8125 = .known (.sub 1 2) ∧ decodeWord 0x8126 = .known (.shr 1 2) ∧ decodeWord 0x8127 = .known (.subn 1 2) ∧
    decodeWord 0x812E = .known (.shl 1 2) ∧ decodeWord 0xC3F0 = .known (.rnd 3 0xF0) := by decide

theorem test_decode_index_and_memory :
    decodeWord 0b1010001011110000 = .known (.ldix 0x2F0) ∧ decodeWord 0xF21E = .known (.addix 2) ∧
    decodeWord 0xF429 = .known (.font 4) ∧ decodeWord 0xF733 = .known (.bcd 7) ∧ decodeWord 0xF255 = .known (.stm 2) ∧
    decodeWord 0xFF65 = .known (.ldm 0xF) := by decide

theorem test_decode_display :
    decodeWord 0b0000000011100000 = .known .cls ∧ decodeWord 0b1101000100100101 = .known (.drw 1 2 5) := by decide

theorem test_decode_keys_and_timers :
    decodeWord 0xE29E = .known (.skp 2) ∧ decodeWord 0b1110001010100001 = .known (.sknp 2) ∧
    decodeWord 0xF407 = .known (.getdt 4) ∧ decodeWord 0xF30A = .known (.waitk 3) ∧ decodeWord 0xF415 = .known (.setdt 4) ∧
    decodeWord 0xF418 = .known (.setst 4) := by decide

/-- The list of 95_test_vectors.md, section 2.6. -/
theorem test_unknown_words :
    ([0x0000, 0x00E1, 0x00FE, 0x00EF, 0x0123, 0x0FFF, 0x5121, 0x512F, 0x8128, 0x8129, 0x812D, 0x812F, 0x9121, 0x912F, 0xE09F,
      0xE0A0, 0xE19D, 0xE000, 0xF000, 0xF108, 0xF11F, 0xF130, 0xF156, 0xF175, 0xF185, 0xFFFF] : List Word).all
      (fun op => decodeWord op == .unknown op) = true := by decide

/-- R90, R63: two bytes, the high one first, and the rest is left. -/
theorem test_decode_bytes :
    (match decodeBytes [0x12, 0x34, 0x56] with | .ok (i, rest) => i == .jp 0x234 && rest == [0x56] | .error _ => false) = true
    := by decide
theorem test_decode_truncated :
    (match decodeBytes [0x12] with | .ok _ => false | .error e => e == .truncated) = true := by decide

theorem test_decode_table_word : decodeTableWord 16 0x8124 = some (.add 1 2) ∧ decodeTableWord 16 0x8128 = none := by decide

/-! ## One step on a small state -/

/-- Reset with some registers and memory bytes set. -/
def start (regs : List (RegIdx × Byte)) (bytes : List (Nat × Byte)) : State :=
  let s := regs.foldl (fun s p => s.writeV p.1 p.2) State.reset
  s.setMem (bytes.foldl (fun m p => m.write p.1 p.2) s.mem)

/-- The step that fetches this word, and a check of the state it answers. -/
def stepCheck (op : Word) (s : State) (check : State → Bool) : Bool :=
  match step (s.placeWord op) with
  | .next t => check t
  | .fault _ => false
  | .refused _ => false

/-- Registers as listed. -/
def regsAre (t : State) (regs : List (RegIdx × Byte)) : Bool := regs.all fun p => t.readV p.1 == p.2

/-- Memory bytes as listed. -/
def bytesAre (t : State) (bytes : List (Nat × Byte)) : Bool := bytes.all fun p => t.readByte p.1 == p.2

/-- F1, F12, F13. -/
theorem test_jp : stepCheck 0x1ABC (start [] []) (fun t => t.pc == 0xABC) = true := by decide
theorem test_jpv0 : stepCheck 0xBFFF (start [(0, 0xFF), (0xF, 0x50)] []) (fun t => t.pc == 0x10FE) = true := by decide

/-- F5, F7. -/
theorem test_call :
    stepCheck 0x2300 (start [] []) (fun t => t.pc == 0x300 && t.sp == 1 && t.stk[0] == 0x202) = true := by decide
theorem test_call_last_entry :
    stepCheck 0x2300 ((start [] []).setStack 15 (Vector.replicate 16 0))
      (fun t => t.pc == 0x300 && t.sp == 16 && t.stk[15] == 0x202) = true := by decide

/-- F26, F27. -/
theorem test_ret :
    stepCheck 0x00EE ((start [] []).setStack 16 ((Vector.replicate 16 0).set 15 0x0ABC))
      (fun t => t.pc == 0xABC && t.sp == 15) = true := by decide
theorem test_ret_beyond_memory :
    stepCheck 0x00EE ((start [] []).setStack 1 ((Vector.replicate 16 0).set 0 0x1000))
      (fun t => t.pc == 0x1000 && t.sp == 0) = true := by decide

/-- F8, F10: the whole record. -/
theorem test_stack_overflow :
    stepCheck 0x2300 ((start [] []).setStack 16 (Vector.replicate 16 0))
      (fun t => t.err == ⟨.stackOverflow, 0x200, true, 0x2300, false, 0⟩ && t.run == .halted && t.pc == 0x200 && t.sp == 16)
      = true := by decide
theorem test_stack_underflow :
    stepCheck 0x00EE (start [] [])
      (fun t => t.err == ⟨.stackUnderflow, 0x200, true, 0x00EE, false, 0⟩ && t.run == .halted && t.pc == 0x200) = true := by
  decide

/-- F14 to F19, F21 to F23. -/
theorem test_se : (stepCheck 0x332A (start [(3, 0x2A)] []) (fun t => t.pc == 0x204) &&
    stepCheck 0x332B (start [(3, 0x2A)] []) (fun t => t.pc == 0x202)) = true := by decide
theorem test_sne : (stepCheck 0x432A (start [(3, 0x2A)] []) (fun t => t.pc == 0x202) &&
    stepCheck 0x432B (start [(3, 0x2A)] []) (fun t => t.pc == 0x204)) = true := by decide
theorem test_ser : (stepCheck 0x5120 (start [(1, 7), (2, 7)] []) (fun t => t.pc == 0x204) &&
    stepCheck 0x5120 (start [(1, 7), (2, 8)] []) (fun t => t.pc == 0x202)) = true := by decide
theorem test_sner : (stepCheck 0x9120 (start [(1, 7), (2, 8)] []) (fun t => t.pc == 0x204) &&
    stepCheck 0x9550 (start [(5, 9)] []) (fun t => t.pc == 0x202)) = true := by decide

/-- A1, A4, A8. -/
theorem test_ldb : stepCheck 0x6A7F (start [] []) (fun t => regsAre t [(0xA, 0x7F), (7, 0)] && t.pc == 0x202) = true := by decide
theorem test_addb_wraps_without_flag :
    stepCheck 0x7102 (start [(1, 0xFF), (0xF, 1)] []) (fun t => regsAre t [(1, 1), (0xF, 1)]) = true := by decide
theorem test_mov : stepCheck 0x8120 (start [(2, 0x33)] []) (fun t => regsAre t [(1, 0x33), (2, 0x33)]) = true := by decide

/-- A10 to A12. -/
theorem test_or : stepCheck 0x8121 (start [(1, 0xF0), (2, 0x0F), (0xF, 1)] []) (fun t => regsAre t [(1, 0xFF), (0xF, 1)]) = true := by decide
theorem test_and : stepCheck 0x8122 (start [(1, 0xF3), (2, 0x3C), (0xF, 1)] []) (fun t => regsAre t [(1, 0x30), (0xF, 1)]) = true := by decide
theorem test_xor : stepCheck 0x8123 (start [(1, 0xFF), (2, 0x0F), (0xF, 1)] []) (fun t => regsAre t [(1, 0xF0), (0xF, 1)]) = true := by decide

/-- A14, A16 (S10: no threshold of 254). -/
theorem test_add_carries : stepCheck 0x8124 (start [(1, 0xFF), (2, 1)] []) (fun t => regsAre t [(1, 0), (0xF, 1)]) = true := by decide
theorem test_add_no_carry : stepCheck 0x8124 (start [(1, 0xFF), (2, 0), (0xF, 1)] []) (fun t => regsAre t [(1, 0xFF), (0xF, 0)]) = true := by decide

/-- A21, A22. -/
theorem test_sub_borrows : stepCheck 0x8125 (start [(1, 3), (2, 5), (0xF, 1)] []) (fun t => regsAre t [(1, 0xFE), (0xF, 0)]) = true := by decide
theorem test_sub_equal : stepCheck 0x8125 (start [(1, 7), (2, 7)] []) (fun t => regsAre t [(1, 0), (0xF, 1)]) = true := by decide

/-- A26, A27. -/
theorem test_subn : stepCheck 0x8127 (start [(1, 3), (2, 5)] []) (fun t => regsAre t [(1, 2), (0xF, 1)]) = true := by decide
theorem test_subn_borrows : stepCheck 0x8127 (start [(1, 5), (2, 3), (0xF, 1)] []) (fun t => regsAre t [(1, 0xFE), (0xF, 0)]) = true := by decide

/-- A31, A33. -/
theorem test_shr : stepCheck 0x8106 (start [(1, 0x80), (0xF, 1)] []) (fun t => regsAre t [(1, 0x40), (0xF, 0)]) = true := by decide
theorem test_shr_ignores_y : stepCheck 0x8126 (start [(1, 5), (2, 0xFF)] []) (fun t => regsAre t [(1, 2), (0xF, 1), (2, 0xFF)]) = true := by decide

/-- A36 (S11: not bit 4), A35. -/
theorem test_shl_bit_seven : stepCheck 0x810E (start [(1, 0x10), (0xF, 1)] []) (fun t => regsAre t [(1, 0x20), (0xF, 0)]) = true := by decide
theorem test_shl : stepCheck 0x812E (start [(1, 0x81), (2, 0xFF)] []) (fun t => regsAre t [(1, 2), (0xF, 1)]) = true := by decide

/-- A50, A51, A54, A59: VF as an operand. -/
theorem test_add_into_flag_register : stepCheck 0x8F14 (start [(0xF, 0xF0), (1, 0x20)] []) (fun t => regsAre t [(0xF, 0x10)]) = true := by decide
theorem test_add_flag_register : stepCheck 0x81F4 (start [(1, 0x20), (0xF, 0xF0)] []) (fun t => regsAre t [(1, 0x10), (0xF, 1)]) = true := by decide
theorem test_sub_flag_register : stepCheck 0x81F5 (start [(1, 3), (0xF, 5)] []) (fun t => regsAre t [(1, 0xFE), (0xF, 0)]) = true := by decide
theorem test_shl_flag_register : stepCheck 0x8F0E (start [(0xF, 0x81)] []) (fun t => regsAre t [(0xF, 2)]) = true := by decide

/-- A42 (S12: the whole mask), for a random source that answers A7. -/
theorem test_rnd (h : Config.randomByte 0 = 0xA7) :
    ∃ t, exec (.rnd 3 0xF0) State.reset = .next t ∧ t.readV 3 = 0xA0 := by
  refine ⟨_, rfl, ?_⟩
  show Config.randomByte 0 &&& 0xF0 = 0xA0
  rw [h]; decide

/-- M1 (S13: 12 bits), M5. -/
theorem test_ldix : stepCheck 0xA2F0 (start [] []) (fun t => t.i == 0x2F0 && t.pc == 0x202) = true := by decide
theorem test_addix_wraps : stepCheck 0xF21E ((start [(2, 2), (0xF, 7)] []).setI 0xFFF) (fun t => t.i == 1 && regsAre t [(0xF, 7)]) = true := by decide

/-- M7, M10, for the font base the vectors use. -/
theorem test_font (h : Config.fontBase = 0x050) :
    ∃ t u, exec (.font 4) (start [(4, 0x0A)] []) = .next t ∧ t.i = 0x82 ∧
      exec (.font 4) (start [(4, 0x10)] []) = .next u ∧ u.i = 0xA0 := by
  refine ⟨_, _, rfl, ?_, rfl, ?_⟩
  · show BitVec.ofNat 16 (Config.fontBase + 5 * (0x0A : Byte).toNat) = 0x82
    rw [h]; decide
  · show BitVec.ofNat 16 (Config.fontBase + 5 * (0x10 : Byte).toNat) = 0xA0
    rw [h]; decide

/-- M15, M16. -/
theorem test_bcd : stepCheck 0xF033 ((start [(0, 0xFF)] []).setI 0xFFD)
    (fun t => bytesAre t [(0xFFD, 2), (0xFFE, 5), (0xFFF, 5), (0xFFC, 0)] && t.i == 0xFFD && t.pc == 0x202) = true := by decide
theorem test_bcd_out_of_range : stepCheck 0xF033 ((start [(0, 0xFF)] []).setI 0xFFE)
    (fun t => t.err == ⟨.outOfRange, 0x200, true, 0xF033, true, 0xFFE⟩ && t.run == .halted && bytesAre t [(0xFFE, 0), (0xFFF, 0)])
    = true := by decide

/-- M18, M21. -/
theorem test_stm : stepCheck 0xF255 ((start [(0, 0x11), (1, 0x22), (2, 0x33), (3, 0x44)] []).setI 0x400)
    (fun t => bytesAre t [(0x400, 0x11), (0x401, 0x22), (0x402, 0x33), (0x403, 0)] && t.i == 0x400) = true := by decide
theorem test_stm_out_of_range : stepCheck 0xF355 ((start [(0, 1), (1, 2), (2, 3), (3, 4)] []).setI 0xFFD)
    (fun t => t.err == ⟨.outOfRange, 0x200, true, 0xF355, true, 0xFFD⟩ && bytesAre t [(0xFFD, 0)]) = true := by decide

/-- M23, M24. -/
theorem test_ldm : stepCheck 0xF165 ((start [(2, 0x99)] [(0x400, 0xAA), (0x401, 0xBB), (0x402, 0xCC)]).setI 0x400)
    (fun t => regsAre t [(0, 0xAA), (1, 0xBB), (2, 0x99)] && t.i == 0x400) = true := by decide
theorem test_ldm_out_of_range : stepCheck 0xF165 ((start [(0, 7)] []).setI 0xFFF)
    (fun t => t.err == ⟨.outOfRange, 0x200, true, 0xF165, true, 0xFFF⟩ && regsAre t [(0, 7)]) = true := by decide

/-- D1. -/
theorem test_cls : stepCheck 0x00E0 ((start [(0xF, 1)] []).setFb (((Vector.replicate 32 0).set 0 1).set 31 0x8000000000000000))
    (fun t => t.fb == Vector.replicate 32 0 && regsAre t [(0xF, 1)] && t.pc == 0x202) = true := by decide

/-- D2 (S6: a row wraps at the right edge); bit `x` of a row is column `x`. -/
theorem test_drw_wraps : stepCheck 0xD011 ((start [(0, 0x3C), (1, 0), (0xF, 1)] [(0x300, 0xFF)]).setI 0x300)
    (fun t => t.fb == (Vector.replicate 32 0).set 0 0xF00000000000000F && regsAre t [(0xF, 0)]) = true := by decide

/-- D5: one cell goes off (collision), the next goes on. -/
theorem test_drw_collides :
    stepCheck 0xD011 (((start [(0, 0), (1, 0)] [(0x300, 0xC0)]).setI 0x300).setFb ((Vector.replicate 32 0).set 0 1))
      (fun t => t.fb == (Vector.replicate 32 0).set 0 2 && regsAre t [(0xF, 1)]) = true := by decide

/-- K1 to K5, for a key query that answers as the vector says. -/
theorem test_skp (h : Config.keyPressed 0 5 = true) :
    ∃ t, exec (.skp 2) (start [(2, 0x15)] []) = .next t ∧ t.pc = 0x204 := by
  refine ⟨_, rfl, ?_⟩
  show (0x200 : Word) + (if Config.keyPressed 0 5 = true then 4 else 2) = 0x204
  rw [h]; decide
theorem test_sknp (h : Config.keyPressed 0 5 = true) :
    ∃ t, exec (.sknp 2) (start [(2, 5)] []) = .next t ∧ t.pc = 0x202 := by
  refine ⟨_, rfl, ?_⟩
  show (0x200 : Word) + (if (!Config.keyPressed 0 5) = true then 4 else 2) = 0x202
  rw [h]; decide

/-- K7 to K9, K12. -/
theorem test_getdt : stepCheck 0xF407 ((start [] []).setDt 0x1E) (fun t => regsAre t [(4, 0x1E)] && t.pc == 0x202) = true := by decide
theorem test_setdt : stepCheck 0xF415 (start [(4, 0x3C)] []) (fun t => t.dt == 0x3C && t.st == 0) = true := by decide
theorem test_setst : stepCheck 0xF418 (start [(4, 5)] []) (fun t => t.st == 5 && t.dt == 0) = true := by decide
theorem test_waitk : stepCheck 0xF30A ((start [] []).setPc 0x210) (fun t => t.run == .awaitingKey 3 && t.pc == 0x210) = true := by decide

/-! ## The agents, the fetch, reset -/

/-- A step of a state as it is, and a check of what it answers. -/
def plainCheck (s : State) (check : State → Bool) : Bool :=
  match step s with
  | .next t => check t
  | .fault _ => false
  | .refused _ => false

/-- E1, E2. -/
theorem test_key_event : plainCheck ((((start [] []).setPc 0x210).setRun (.awaitingKey 3)).setHostInputs [.keyEvent 0xB])
    (fun t => regsAre t [(3, 0x0B)] && t.pc == 0x212 && t.run == .running && t.hostInputs == []) = true := by decide
theorem test_key_event_dropped : step ((start [] []).setHostInputs [.keyEvent 0xB]) = .next (start [] []) := rfl

/-- E6, E8, E9. -/
theorem test_tick_floor : step ((start [] []).setHostInputs [.tick]) = .next (start [] []) := rfl
theorem test_tick_while_waiting :
    plainCheck (((((start [] []).setDt 0xFF).setSt 2).setRun (.awaitingKey 3)).setHostInputs [.tick])
      (fun t => t.dt == 0xFE && t.st == 1 && t.run == .awaitingKey 3) = true := by decide
theorem test_tick_while_halted :
    plainCheck ((((start [] []).setDt 2).setRun .halted).setHostInputs [.tick]) (fun t => t.dt == 1 && t.run == .halted) = true := by
  decide

/-- E10, E11. -/
theorem test_no_step_while_waiting :
    step ((start [] []).setRun (.awaitingKey 3)) = .next ((start [] []).setRun (.awaitingKey 3)) := rfl
theorem test_no_step_while_halted : step ((start [] []).setRun .halted) = .next ((start [] []).setRun .halted) := rfl

/-- X1, X2, X3, X5. -/
theorem test_last_fetch : plainCheck ((start [] [(0xFFE, 0x6A), (0xFFF, 0x7F)]).setPc 0xFFE)
    (fun t => regsAre t [(0xA, 0x7F)] && t.pc == 0x1000) = true := by decide
theorem test_odd_fetch : plainCheck ((start [] [(0x201, 0x6A), (0x202, 0x7F)]).setPc 0x201)
    (fun t => regsAre t [(0xA, 0x7F)] && t.pc == 0x203) = true := by decide
theorem test_fetch_out_of_range : (plainCheck ((start [] []).setPc 0xFFF)
      (fun t => t.err == ⟨.outOfRange, 0xFFF, false, 0, true, 0xFFF⟩ && t.run == .halted && t.pc == 0xFFF) &&
    plainCheck ((start [] []).setPc 0x10FE)
      (fun t => t.err == ⟨.outOfRange, 0x10FE, false, 0, true, 0x10FE⟩ && t.run == .halted)) = true := by decide

/-- Section 2.6 and UK2: an unknown word under each policy. -/
theorem test_unknown_strict : (start [] []).takeUnknown .strict 0x5121 =
    ((start [] []).setErr ⟨.unknownOpcode, 0x200, true, 0x5121, false, 0⟩).setRun .halted := rfl
theorem test_unknown_permissive : ((start [] []).setPc 0xFFE).takeUnknown .permissive 0x0000 =
    ((start [] []).setErr ⟨.unknownOpcode, 0xFFE, true, 0x0000, false, 0⟩).setPc 0x1000 := rfl

/-- X8, X9, X10. -/
theorem test_reset_loads : plainCheck ((((start [(3, 9)] [(0x300, 5)]).setRun .halted).setDt 7).setHostInputs [.reset [0x12]])
    (fun t => bytesAre t [(0x200, 0x12), (0x201, 0), (0x300, 0)] && regsAre t [(3, 0)] && t.pc == 0x200 && t.dt == 0 &&
      t.run == .running && t.err == ErrorRecord.clear) = true := by decide
theorem test_reset_too_long (program : List Byte) (h : programFits program = false) :
    ∃ t, step ((start [(3, 9)] []).setHostInputs [.reset program]) = .next t ∧
      t.err = ⟨.loadError, 0x200, false, 0, false, 0⟩ ∧ t.run = .halted ∧ t.readByte 0x200 = 0 ∧ t.readV 3 = 0 := by
  refine ⟨(start [(3, 9)] []).hostReset program, rfl, ?_⟩
  simp only [State.hostReset, resetState, h]
  exact ⟨rfl, rfl, rfl, rfl⟩

/-- The host's question on a word: it is the first instruction after reset. -/
theorem test_with_fetch_word : step (State.reset.withFetchWord 16 0x8124) = exec (.add 1 2) (State.reset.withFetchWord 16 0x8124) := rfl

/-- R298 with R174 and U6: the forms with VF that a well-formed program does not use, with the `y` of a draw and a subtract
among them; a move out of VF, a test of it, and the unused `y` of a shift are allowed. -/
theorem test_vf_as_storage_refused :
    [Instr.add 1 0xF, .add 0xF 1, .sub 1 0xF, .subn 1 0xF, .shr 0xF 1, .shl 0xF 1, .drw 0xF 1 1, .drw 1 0xF 1, .ldb 0xF 1,
      .ldm 0xF].all (fun i => !vfNotStorage i) = true := by decide
theorem test_vf_as_flag_accepted :
    [Instr.mov 0xE 0xF, .se 0xF 1, .ser 1 0xF, .add 1 2, .shr 1 0xF, .shl 1 0xF, .drw 1 2 1].all vfNotStorage = true := by decide

/-- R298: a known word that meets its obligations, an unknown word, a draw with VF as a coordinate, a fetch above memory. -/
theorem test_step_obligations :
    stepObligations (State.reset.placeWord 0x6A7F) = true ∧ stepObligations (State.reset.placeWord 0x5121) = false ∧
    stepObligations (State.reset.placeWord 0xD1F1) = false ∧ stepObligations (State.reset.setPc 0x1000) = false := by decide

/-- R250: the numeric codes. -/
theorem test_error_codes : [ErrorKind.none, .loadError, .stackOverflow, .stackUnderflow, .unknownOpcode, .outOfRange].map errorCode =
    [0, 1, 2, 3, 4, 5] := by decide

/-- R46: the snapshot leaves out the entries at and above `SP`. -/
theorem test_snapshot_stack : ((start [] []).setStack 1 (Vector.replicate 16 0x202)).snapshot.stack = [0x202] := by decide

/-! ## Witnesses: the hypotheses of every statement can be met together -/

/-- Decoding. -/
theorem witness_EncodeOfDecodeIsTheWord : decodeWord 0x8AB6 = .known (.shr 0xA 0xB) := by decide
theorem witness_DecoderAgreesWithOpcodeMap :
    (⟨"XOR", 0x8003, 0xF00F, .xyk⟩ : OpcodeRow) ∈ opcodeTable ∧ (0x8FF3 : Word) &&& 0xF00F = 0x8003 := by decide
theorem witness_UnmatchedWordsAreUnknown :
    (∀ row, row ∈ opcodeTable → (0x00E1 : Word) &&& row.mask ≠ row.value) ∧ decodeWord 0x00E1 = .unknown 0x00E1 := by decide

/-- The last fetchable address, with nothing queued and with a request queued. -/
theorem witness_StepRunsTheDecodedInstruction :
    StepRequested ((start [] [(0xFFE, 0x6A), (0xFFF, 0x7F)]).setPc 0xFFE) ((start [] [(0xFFE, 0x6A), (0xFFF, 0x7F)]).setPc 0xFFE) ∧
    StepRequested ((start [] [(0xFFE, 0x6A), (0xFFF, 0x7F)]).setHostInputs [.stepRequest, .tick])
      ((start [] [(0xFFE, 0x6A), (0xFFF, 0x7F)]).setHostInputs [.tick]) ∧
    FetchedWord ((start [] [(0xFFE, 0x6A), (0xFFF, 0x7F)]).setPc 0xFFE) 0x6A7F ∧
    ((start [] [(0xFFE, 0x6A), (0xFFF, 0x7F)]).setPc 0xFFE).run = .running ∧ decodeWord 0x6A7F = .known (.ldb 0xA 0x7F) :=
  ⟨.inl ⟨rfl, rfl⟩, .inr ⟨[.tick], rfl, rfl⟩, ⟨by decide, by decide⟩, rfl, by decide⟩
theorem witness_FetchAboveMemoryRaises :
    StepRequested (State.reset.setPc 0xFFF) (State.reset.setPc 0xFFF) ∧ (State.reset.setPc 0xFFF).run = .running ∧
    0xFFE < (State.reset.setPc 0xFFF).pc.toNat := ⟨.inl ⟨rfl, rfl⟩, rfl, by decide⟩
theorem witness_UnknownWordOutcome :
    StepRequested State.reset State.reset ∧ State.reset.run = .running ∧ FetchedWord State.reset 0x0000 ∧
    decodeWord 0x0000 = .unknown 0x0000 := ⟨.inl ⟨rfl, rfl⟩, rfl, ⟨by decide, by decide⟩, by decide⟩

/-- The agents: one state for each clause. -/
theorem witness_NoStepWhileWaitingOrHalted :
    (StepRequested (State.reset.setRun .halted) (State.reset.setRun .halted) ∧ (State.reset.setRun .halted).run ≠ .running) ∧
    (StepRequested (State.reset.setRun (.awaitingKey 0xF)) (State.reset.setRun (.awaitingKey 0xF)) ∧
      (State.reset.setRun (.awaitingKey 0xF)).run ≠ .running) ∧
    (((State.reset.setRun (.awaitingKey 0xF)).setHostInputs [.keyEvent 0]).run = .awaitingKey 0xF ∧
      ((State.reset.setRun (.awaitingKey 0xF)).setHostInputs [.keyEvent 0]).hostInputs = [.keyEvent 0]) ∧
    (((State.reset.setRun .halted).setHostInputs [.keyEvent 0]).run = .halted ∧ ∀ program, HostInput.keyEvent 0 ≠ .reset program) ∧
    (((State.reset.setRun .halted).setHostInputs [.reset []]).run = .halted ∧ ([] : List Byte).length ≤ 3584) ∧
    ((State.reset.setRun .halted).setHostInputs [.tick]).hostInputs = [.tick] :=
  ⟨⟨.inl ⟨rfl, rfl⟩, by decide⟩, ⟨.inl ⟨rfl, rfl⟩, by decide⟩, ⟨rfl, rfl⟩, ⟨rfl, by simp⟩, ⟨rfl, by decide⟩, rfl⟩
theorem witness_TickCountsBothTimersDown : (State.reset.setHostInputs [.tick]).hostInputs = .tick :: [] := rfl
theorem witness_KeyEventStep :
    (((State.reset.setRun (.awaitingKey 0xF)).setHostInputs [.keyEvent 0xF]).run = .awaitingKey 0xF ∧
      ((State.reset.setRun (.awaitingKey 0xF)).setHostInputs [.keyEvent 0xF]).hostInputs = .keyEvent 0xF :: []) ∧
    ((∀ r, (State.reset.setHostInputs [.keyEvent 0]).run ≠ .awaitingKey r) ∧
      (State.reset.setHostInputs [.keyEvent 0]).hostInputs = .keyEvent 0 :: []) :=
  ⟨⟨rfl, rfl⟩, by decide, rfl⟩
/-- The longest program, with its last byte; the empty one, with an address above the font and one at the end of memory. -/
theorem witness_ResetLoadsTheProgram :
    (∃ program : List Byte, (State.reset.setHostInputs [.reset program]).hostInputs = .reset program :: [] ∧
      program.length ≤ 3584 ∧ program[3583]? = some 7) ∧
    (([] : List Byte).length ≤ 3584 ∧ (0x1FF < 4096 ∧ Config.fontBase + 80 ≤ 0x200 ∧ 0x1FF < 0x200)) := by
  refine ⟨⟨List.replicate 3584 7, rfl, by rw [List.length_replicate], ?_⟩, by decide, by decide, ?_, by decide⟩
  · rw [List.getElem?_replicate]; rfl
  · have := Config.fontBaseChoice.isLt; unfold Config.fontBase; omega
theorem witness_OversizedProgramHalts :
    ∃ program : List Byte, (State.reset.setHostInputs [.reset program]).hostInputs = .reset program :: [] ∧
      3584 < program.length := ⟨List.replicate 3585 7, rfl, by rw [List.length_replicate]; decide⟩

/-- Operand registers at the two ends of what the hypotheses allow. -/
theorem witness_AddResult : (0x0 : RegIdx) ≠ flagReg ∧ (0xE : RegIdx) ≠ flagReg := by decide
theorem witness_SubtractResults : (0x0 : RegIdx) ≠ flagReg ∧ (0xE : RegIdx) ≠ flagReg := by decide
theorem witness_ShiftResults : (0x0 : RegIdx) ≠ flagReg ∧ (0xE : RegIdx) ≠ flagReg := by decide
theorem witness_FlagRegisterOperandResults : (0x0 : RegIdx) ≠ flagReg ∧ (0xE : RegIdx) ≠ flagReg := by decide
theorem witness_SameRegisterOperandResults : (0x0 : RegIdx) ≠ flagReg ∧ (0xE : RegIdx) ≠ flagReg := by decide

theorem witness_JumpToItselfChangesNothing :
    (State.reset.setPc 0xFFF).pc.toNat = (0xFFF : Addr12).toNat ∧ (State.reset.setPc 0).pc.toNat = (0 : Addr12).toNat := by decide

/-- The stack full, with one entry left, empty, with one entry. -/
theorem witness_CallResult :
    (State.reset.setStack 15 (Vector.replicate 16 0)).sp ≠ 16 ∧ State.reset.sp ≠ 16 ∧
    (State.reset.setStack 16 (Vector.replicate 16 0)).sp = 16 := by decide
theorem witness_ReturnResult :
    (State.reset.setStack 16 (Vector.replicate 16 0)).sp ≠ 0 ∧ (State.reset.setStack 1 (Vector.replicate 16 0)).sp ≠ 0 ∧
    State.reset.sp = 0 := by decide
theorem witness_CallThenReturnComesBack : ∃ t u : State, (State.reset.setStack 15 (Vector.replicate 16 7)).sp ≠ 16 ∧
    exec (.call 0x300) (State.reset.setStack 15 (Vector.replicate 16 7)) = .next t ∧ u.sp = t.sp ∧ u.stk = t.stk ∧ u.pc ≠ t.pc :=
  ⟨_, State.reset.setStack 16 ((Vector.replicate 16 7).set 15 0x202), by decide, rfl, rfl, rfl, by decide⟩

/-- The last range that fits, and the first that does not, for each access. -/
theorem witness_DecimalDigitsStored : (State.reset.setI 0xFFD).base + 2 ≤ 0xFFF := by decide
theorem witness_RegistersStored : (State.reset.setI 0xFF0).base + (0xF : RegIdx).toNat ≤ 0xFFF ∧
    (State.reset.setI 0xFFF).base + (0x0 : RegIdx).toNat ≤ 0xFFF := by decide
theorem witness_RegistersLoaded : (State.reset.setI 0xFF0).base + (0xF : RegIdx).toNat ≤ 0xFFF ∧
    (State.reset.setI 0xFFF).base + (0x0 : RegIdx).toNat ≤ 0xFFF := by decide
theorem witness_ErrorEntryAndRecord :
    (State.reset.setStack 16 (Vector.replicate 16 0)).sp = 16 ∧ State.reset.sp = 0 ∧
    0xFFF < (State.reset.setI 0xFFE).base + 2 ∧ 0xFFF < (State.reset.setI 0xFF1).base + (0xF : RegIdx).toNat ∧
    0xFFF < (State.reset.setI 0xFFF).base + (0x1 : RegIdx).toNat ∧
    (1 ≤ (0x2 : Nibble).toNat ∧ 0xFFF < (State.reset.setI 0xFFF).base + (0x2 : Nibble).toNat - 1) := by decide
theorem witness_StoredBytesAreFetched : ∃ t u : State, (State.reset.setI 0xFFE).base + (1 : RegIdx).toNat ≤ 0xFFF ∧
    (0 : RegIdx).toNat < (1 : RegIdx).toNat ∧ exec (.stm 1) (State.reset.setI 0xFFE) = .next t ∧ u.mem = t.mem ∧
    u.pc.toNat = (State.reset.setI 0xFFE).base + (0 : RegIdx).toNat :=
  ⟨_, State.reset.setPc 0xFFE, by decide, by decide, rfl, by decide, by decide⟩
theorem witness_StoreThenLoadRestoresRegisters : ∃ t u : State, ((start [(0, 9)] []).setI 0xFFF).base + (0 : RegIdx).toNat ≤ 0xFFF ∧
    exec (.stm 0) ((start [(0, 9)] []).setI 0xFFF) = .next t ∧ u.mem = t.mem ∧ u.i = ((start [(0, 9)] []).setI 0xFFF).i ∧
    u.readV 0 = 5 :=
  ⟨_, (start [(0, 5)] [(0xFFF, 9)]).setI 0xFFF, by decide, rfl, by decide, rfl, by decide⟩

/-- No row, and the longest sprite in the last place it fits. -/
theorem witness_DrawIsXorWithCollision :
    ((0 : Nibble) = 0 ∨ (State.reset.setI 0xFFF).base + (0 : Nibble).toNat - 1 ≤ 0xFFF) ∧
    ((0xF : Nibble) = 0 ∨ (State.reset.setI 0xFF1).base + (0xF : Nibble).toNat - 1 ≤ 0xFFF) ∧
    (SpriteHits ((start [(0, 0x3C)] [(0x300, 0xFF)]).setI 0x300) 0 1 1 3 ∧
      ¬ SpriteHits ((start [(0, 0x3C)] [(0x300, 0xFF)]).setI 0x300) 0 1 0 3) :=
  ⟨by decide, by decide, ⟨0, 7, by decide, by decide, by decide, by decide⟩, fun ⟨_, _, h, _⟩ => absurd h (by simp)⟩
theorem witness_DrawTwiceRestoresTheScreen : ∃ s t u w : State, ((1 : Nibble) = 0 ∨ s.base + (1 : Nibble).toNat - 1 ≤ 0xFFF) ∧
    exec (.drw 0 1 1) s = .next t ∧ u.fb = t.fb ∧ u.mem = s.mem ∧ u.i = s.i ∧ u.readV 0 = s.readV 0 ∧ u.readV 1 = s.readV 1 ∧
    exec (.drw 0 1 1) u = .next w :=
  ⟨(start [] [(0xFFF, 0x81)]).setI 0xFFF, _, (((start [] [(0xFFF, 0x81)]).setI 0xFFF).setFb ((Vector.replicate 32 0).set 0 0x81)),
    _, by decide, rfl, by decide, rfl, rfl, rfl, rfl, rfl⟩
theorem witness_SpriteCellsAreDistinct : (14 : Nat) < 15 ∧ (7 : Nat) < 8 ∧
    spriteCell 0xFF 0xFF 14 7 = spriteCell 0xFF 0xFF 14 7 := by decide

/-- A tick next, and a fetched word that is no `SETDT`. -/
theorem witness_DelayTimerOnlyCountsDown :
    (∀ program rest, (State.reset.setHostInputs [.tick]).hostInputs ≠ .reset program :: rest) ∧
    (∀ op x, FetchedWord (State.reset.placeWord 0x00E0) op → decodeWord op ≠ .known (.setdt x)) ∧
    ∃ t, step (State.reset.placeWord 0x00E0) = .next t := by
  refine ⟨by simp [State.setHostInputs], fun op x h => ?_, _, rfl⟩
  have : op = 0x00E0 := BitVec.eq_of_toNat_eq (h.2.trans (by decide))
  rw [this, show decodeWord 0x00E0 = .known .cls by decide]
  simp
theorem witness_WaitingCoreIsFrozen :
    (State.reset.setRun (.awaitingKey 3)).run = .awaitingKey 3 ∧
    (∀ k rest, (State.reset.setRun (.awaitingKey 3)).hostInputs ≠ .keyEvent k :: rest) ∧
    (∀ program rest, (State.reset.setRun (.awaitingKey 3)).hostInputs ≠ .reset program :: rest) ∧
    (∃ t, step (State.reset.setRun (.awaitingKey 3)) = .next t) ∧
    ((State.reset.setRun (.awaitingKey 3)).setHostInputs [.keyEvent 0]).hostInputs = .keyEvent 0 :: [] ∧
    ∃ t, exec (.waitk 3) State.reset = .next t ∧ t.run = .awaitingKey 3 :=
  ⟨rfl, by simp [State.reset, State.setRun], by simp [State.reset, State.setRun], ⟨_, rfl⟩, rfl, _, rfl, rfl⟩

/-- Every bound of the invariant at its end: `I` 0xFFF, `PC` 0x10FE, a pushed 0x1000, a byte at 0xFFF, a halted core. -/
theorem witness_EveryStepKeepsTheInvariant :
    Inv ((((((start [] [(0xFFF, 1)]).setI 0xFFF).setPc 0x10FE).setStack 1 (Vector.replicate 16 0x1000)).setErr
      ⟨.outOfRange, 0xFFF, false, 0, true, 0xFFF⟩).setRun .halted) where
  index := by decide
  counter := by decide
  returns := fun k h => by
    have hk : k < 16 := by omega
    show ((Vector.replicate 16 (0x1000 : Word))[k]).toNat ≤ 0x1000
    simp
  waiting := by intro r h; cases h
  halted := fun _ => rfl
  opcode := fun _ => rfl
  address := ⟨rfl, fun h => by cases h⟩
  memory := by decide

/-- The whole-machine statements. -/
theorem witness_InstructionsWriteOnlyTheirState :
    raises .ret (State.reset.setStack 1 (Vector.replicate 16 0)) = none ∧
    ∃ t, exec .ret (State.reset.setStack 1 (Vector.replicate 16 0)) = .next t := ⟨by decide, _, rfl⟩
theorem witness_RegistersChangeOnlyAsDestinations :
    (∃ t, exec (.add 1 2) State.reset = .next t) ∧ namesAsDestination 2 (.add 1 2) = false ∧ ((2 : RegIdx) ≠ flagReg) ∧
    (∃ t, exec (.ldm 0xE) State.reset = .next t) ∧ namesAsDestination flagReg (.ldm 0xE) = false ∧ writesFlag (.ldm 0xE) = false := by
  refine ⟨⟨_, rfl⟩, by decide, by decide, ⟨_, rfl⟩, by decide, by decide⟩
theorem witness_ErrorsExactlyAsListed :
    raises (.stm 0xF) (State.reset.setI 0xFF1) = some .outOfRange ∧ raises (.stm 0xF) (State.reset.setI 0xFF0) = none ∧
    raises .ret State.reset = some .stackUnderflow ∧
    raises (.call 0) (State.reset.setStack 16 (Vector.replicate 16 0)) = some .stackOverflow := by decide
theorem witness_OnlyResetLeavesHalted :
    (State.reset.setRun .halted).run = .halted ∧
    (∀ program rest, (State.reset.setRun .halted).hostInputs ≠ .reset program :: rest) ∧
    ∃ t, step (State.reset.setRun .halted) = .next t := ⟨rfl, by simp [State.reset, State.setRun], _, rfl⟩
theorem witness_DeadStackEntriesAreUnobservable :
    SameButDeadStack (State.reset.setStack 1 (Vector.replicate 16 7)) (State.reset.setStack 1 ((Vector.replicate 16 9).set 0 7)) ∧
    (State.reset.setStack 1 (Vector.replicate 16 7)).stk ≠ (State.reset.setStack 1 ((Vector.replicate 16 9).set 0 7)).stk :=
  ⟨⟨rfl, rfl, rfl, rfl, by decide, rfl, rfl, rfl, rfl, rfl, rfl, rfl, rfl, rfl⟩, by decide⟩
theorem witness_StraightCodeKeepsPcEven :
    jumps (.se 0 0) = false ∧ pcEven (State.reset.setPc 0xFFE) = true ∧ ∃ t, exec (.se 0 0) (State.reset.setPc 0xFFE) = .next t :=
  ⟨rfl, by decide, _, rfl⟩
theorem witness_MemoryChangesOnlyWhereStored :
    (∃ t, exec (.bcd 0) (State.reset.setI 0x200) = .next t) ∧ storesTo (.bcd 0) (State.reset.setI 0x200) 0x203 = false ∧
    storesTo (.bcd 0) (State.reset.setI 0x200) 0x202 = true ∧ storesAboveBase (.bcd 0) (State.reset.setI 0x200) = true ∧
    (0x1FF : Nat) < 0x200 := ⟨⟨_, rfl⟩, by decide, by decide, by decide, by decide⟩
theorem witness_SoundTimerIsReadByNoInstruction : ∃ t, exec (.setst 0) State.reset = .next t := ⟨_, rfl⟩
theorem witness_OutsideSourcesAskedOnce : ∃ t, exec (.rnd 0 0) State.reset = .next t := ⟨_, rfl⟩

end Sys2Proof.Tests
end

section
/-! SUPPORT. What `exec` answers for an instruction that raises (10_state.md R11, 60_exceptions.md R257), and, for the six
instructions that can raise, what it answers where they do not. Later proofs cite these and do not open the guards again. -/

namespace Sys2Proof.Machine

/-- The address an instruction's error record names (R256): the base `I` for `OutOfRange`, none for a stack error. -/
def raisedAddr (k : ErrorKind) (s : State) : Option Word := if k = .outOfRange then some s.i else none

/-- The range condition of R250 is the test the data instructions make. -/
theorem ite_rangeCondition (a n : Nat) :
    (if 0 < n ∧ 0xFFF < a + n - 1 then some ErrorKind.outOfRange else none) =
      if outOfRange a n then some .outOfRange else none := by
  simp only [outOfRange_iff]

/-! ## Where the four data instructions raise -/

theorem raises_drw (x y : RegIdx) (n : Nibble) (s : State) :
    raises (.drw x y n) s = if outOfRange s.base n.toNat then some .outOfRange else none := ite_rangeCondition ..

theorem raises_bcd (x : RegIdx) (s : State) :
    raises (.bcd x) s = if outOfRange s.base 3 then some .outOfRange else none := ite_rangeCondition ..

theorem raises_stm (x : RegIdx) (s : State) :
    raises (.stm x) s = if outOfRange s.base (runLength x) then some .outOfRange else none := ite_rangeCondition ..

theorem raises_ldm (x : RegIdx) (s : State) :
    raises (.ldm x) s = if outOfRange s.base (runLength x) then some .outOfRange else none := ite_rangeCondition ..

/-! ## The error entry -/

/-- An instruction that raises writes its error record, halts, and does nothing else (R129, R257). -/
theorem exec_of_raises {i : Instr} {s : State} {k : ErrorKind} (h : raises i s = some k) :
    exec i s = .next (s.raiseError k (some (encode i)) (raisedAddr k s)) := by
  have rangeError {a n : Nat} (hd : (if outOfRange a n then some ErrorKind.outOfRange else none) = some k) :
      outOfRange a n = true ∧ k = .outOfRange := by
    split at hd <;> simp_all
  cases i with
  | ret =>
    simp only [raises, Option.ite_none_right_eq_some, Option.some.injEq] at h
    obtain ⟨hs, rfl⟩ := h
    simp only [exec, execRet, (pop_eq_none s).2 hs]; rfl
  | call nnn =>
    simp only [raises, Option.ite_none_right_eq_some, Option.some.injEq] at h
    obtain ⟨hs, rfl⟩ := h
    simp only [exec, execCall, (push_eq_none s _).2 hs]; rfl
  | drw | bcd | stm | ldm =>
    obtain ⟨ho, rfl⟩ := rangeError ((ite_rangeCondition _ _).symm.trans h)
    exact if_pos ho
  | _ => cases h

/-! ## The six instructions that can raise, where they do not -/

theorem not_outOfRange {a n : Nat} (h : (if outOfRange a n then some ErrorKind.outOfRange else none) = none) :
    ¬ outOfRange a n = true := by
  intro ho; rw [if_pos ho] at h; cases h

theorem raises_ret_eq_none {s : State} (h : raises .ret s = none) : 0 < s.sp.val := by
  simp only [raises, ite_eq_right_iff, reduceCtorEq, imp_false, Fin.ext_iff] at h
  exact Nat.pos_of_ne_zero h

theorem raises_call_eq_none {nnn : Addr12} {s : State} (h : raises (.call nnn) s = none) : s.sp.val < 16 := by
  simp only [raises, ite_eq_right_iff, reduceCtorEq, imp_false, Fin.ext_iff] at h
  have := s.sp.isLt
  have : ((16 : Fin 17) : Nat) = 16 := rfl
  omega

theorem push_of_lt {s : State} (hs : s.sp.val < 16) (w : Word) :
    s.push w = some (s.setStack ⟨s.sp.val + 1, by omega⟩ (s.stk.set s.sp.val w)) := by
  unfold State.push; rw [dif_pos hs]

theorem pop_of_pos {s : State} (hs : 0 < s.sp.val) :
    s.pop = some (s.stk[s.sp.val - 1], s.setStack ⟨s.sp.val - 1, by omega⟩ s.stk) := by
  unfold State.pop; rw [dif_pos hs]

theorem exec_ret {s : State} (hs : 0 < s.sp.val) :
    exec .ret s = .next ((s.setStack ⟨s.sp.val - 1, by omega⟩ s.stk).setPc s.stk[s.sp.val - 1]) := by
  simp only [exec, execRet, pop_of_pos hs]

theorem exec_call {s : State} (hs : s.sp.val < 16) (nnn : Addr12) :
    exec (.call nnn) s =
      .next ((s.setStack ⟨s.sp.val + 1, by omega⟩ (s.stk.set s.sp.val (s.pc + 2))).setPc (addrOf nnn)) := by
  simp only [exec, execCall, push_of_lt hs]

theorem exec_drw {x y : RegIdx} {n : Nibble} {s : State} (h : raises (.drw x y n) s = none) :
    exec (.drw x y n) s =
      .next ((s.setFb (s.drawn x y n).fb).writeV flagReg (flagByte (s.drawn x y n).hit)).advance :=
  if_neg (not_outOfRange (raises_drw x y n s ▸ h))

theorem exec_bcd {x : RegIdx} {s : State} (h : raises (.bcd x) s = none) :
    exec (.bcd x) s = .next (s.setMem (s.mem.writeRun s.base (bcdDigits (s.readV x)))).advance :=
  if_neg (not_outOfRange (raises_bcd x s ▸ h))

theorem exec_stm {x : RegIdx} {s : State} (h : raises (.stm x) s = none) :
    exec (.stm x) s = .next (s.setMem (s.mem.writeRun s.base (s.readRegs x))).advance :=
  if_neg (not_outOfRange (raises_stm x s ▸ h))

theorem exec_ldm {x : RegIdx} {s : State} (h : raises (.ldm x) s = none) :
    exec (.ldm x) s = .next (s.writeRegs 0 (s.mem.readRun s.base (runLength x))).advance :=
  if_neg (not_outOfRange (raises_ldm x s ▸ h))

/-! ## Loading registers, on two states at once -/

/-- Loading registers depends on the register file only, so states with one register file end with one. -/
theorem writeRegs_congr {s t : State} (h : s.v = t.v) (k : Nat) (bs : List Byte) :
    ∃ v, s.writeRegs k bs = s.setV v ∧ t.writeRegs k bs = t.setV v := by
  induction bs generalizing s t k with
  | nil => exact ⟨s.v, rfl, h ▸ rfl⟩
  | cons b bs ih =>
    obtain ⟨v, hs, ht⟩ := ih (s := s.writeV (BitVec.ofNat 4 k) b) (t := t.writeV (BitVec.ofNat 4 k) b)
      (by simp only [writeV_v, h]) (k + 1)
    exact ⟨v, hs, ht⟩

end Sys2Proof.Machine
end

section
/-! PROOFS. Frames (10_state.md R35): what each update of the state leaves alone, how frames of updates in a row compose,
and with that the frame of every instruction. -/

namespace Sys2Proof.Machine

theorem Same.refl (s : State) (q : Piece) : Same s s q := by
  cases q with
  | v | mem | fb => exact fun _ => rfl
  | stack => exact ⟨rfl, rfl⟩
  | _ => exact Eq.refl _

theorem Same.trans {s t u : State} {q : Piece} (h : Same s t q) (h' : Same t u q) : Same s u q := by
  cases q with
  | v | mem | fb => exact fun a => (h' a).trans (h a)
  | stack => exact ⟨h'.1.trans h.1, h'.2.trans h.2⟩
  | _ => exact Eq.trans h' h

/-- Two changes in a row change what either of them does. -/
theorem UnchangedExcept.trans {ps qs : List Piece} {s t u : State} (h : UnchangedExcept ps s t)
    (h' : UnchangedExcept qs t u) : UnchangedExcept (ps ++ qs) s u := fun q hq =>
  (h q fun hp => hq (List.mem_append_left qs hp)).trans (h' q fun hp => hq (List.mem_append_right ps hp))

theorem UnchangedExcept.mono {ps qs : List Piece} {s t : State} (h : UnchangedExcept ps s t) (hs : ps ⊆ qs) :
    UnchangedExcept qs s t := fun q hq => h q fun hp => hq (hs hp)

section

variable (s : State)

/-! ## One update at a time -/

theorem unchanged_setV (a : Vector Byte 16) : UnchangedExcept [.v] s (s.setV a) := by
  intro q hq; cases q <;> simp_all [Same, State.readByte, State.pixel]

theorem unchanged_setI (a : Word) : UnchangedExcept [.i] s (s.setI a) := by
  intro q hq; cases q <;> simp_all [Same, State.readV, State.readByte, State.pixel]

theorem unchanged_setPc (a : Word) : UnchangedExcept [.pc] s (s.setPc a) := by
  intro q hq; cases q <;> simp_all [Same, State.readV, State.readByte, State.pixel]

theorem unchanged_setStack (n : Fin 17) (a : Vector Word 16) : UnchangedExcept [.stack] s (s.setStack n a) := by
  intro q hq; cases q <;> simp_all [Same, State.readV, State.readByte, State.pixel]

theorem unchanged_setDt (a : Byte) : UnchangedExcept [.dt] s (s.setDt a) := by
  intro q hq; cases q <;> simp_all [Same, State.readV, State.readByte, State.pixel]

theorem unchanged_setSt (a : Byte) : UnchangedExcept [.st] s (s.setSt a) := by
  intro q hq; cases q <;> simp_all [Same, State.readV, State.readByte, State.pixel]

theorem unchanged_setMem (a : Memory) : UnchangedExcept [.mem] s (s.setMem a) := by
  intro q hq; cases q <;> simp_all [Same, State.readV, State.pixel]

theorem unchanged_setFb (a : Framebuffer) : UnchangedExcept [.fb] s (s.setFb a) := by
  intro q hq; cases q <;> simp_all [Same, State.readV, State.readByte]

theorem unchanged_setRun (a : RunState) : UnchangedExcept [.run] s (s.setRun a) := by
  intro q hq; cases q <;> simp_all [Same, State.readV, State.readByte, State.pixel]

theorem unchanged_setErr (a : ErrorRecord) : UnchangedExcept [.err] s (s.setErr a) := by
  intro q hq; cases q <;> simp_all [Same, State.readV, State.readByte, State.pixel]

theorem unchanged_countRandomDraw : UnchangedExcept [.randomDraws] s s.countRandomDraw := by
  intro q hq; cases q <;> simp_all [Same, State.readV, State.readByte, State.pixel]

theorem unchanged_countKeyQuery : UnchangedExcept [.keyQueries] s s.countKeyQuery := by
  intro q hq; cases q <;> simp_all [Same, State.readV, State.readByte, State.pixel]

/-! ## The operations built from the updates -/

theorem unchanged_writeV (x : RegIdx) (b : Byte) : UnchangedExcept [.v] s (s.writeV x b) := unchanged_setV s _

theorem unchanged_writeRegs (k : Nat) (bs : List Byte) : UnchangedExcept [.v] s (s.writeRegs k bs) := by
  obtain ⟨v, hv⟩ := writeRegs_eq s k bs
  exact hv ▸ unchanged_setV s v

theorem unchanged_advance : UnchangedExcept [.pc] s s.advance := unchanged_setPc s _

theorem unchanged_skipIf (c : Bool) : UnchangedExcept [.pc] s (s.skipIf c) := unchanged_setPc s _

theorem unchanged_writeFlagged (x : RegIdx) (f : Bool) (b : Byte) :
    UnchangedExcept [.v, .pc] s (s.writeFlagged x f b) :=
  (((unchanged_writeV s flagReg _).trans (unchanged_writeV _ x b)).trans (unchanged_advance _)).mono (by simp)

theorem unchanged_raiseError (k : ErrorKind) (op ad : Option Word) :
    UnchangedExcept [.err, .run] s (s.raiseError k op ad) := (unchanged_setErr s _).trans (unchanged_setRun _ _)

end

/-! ## Instructions -/

/-- What an instruction that raises nothing leaves alone (R35). -/
theorem exec_frame {i : Instr} {s t : State} (hr : raises i s = none) (h : exec i s = .next t) :
    UnchangedExcept (writesOf i) s t := by
  cases i with
  | cls => cases h; exact (unchanged_setFb s _).trans (unchanged_advance _)
  | ret =>
    cases (exec_ret (raises_ret_eq_none hr)).symm.trans h
    exact (unchanged_setStack s _ _).trans (unchanged_setPc _ _)
  | call nnn =>
    cases (exec_call (raises_call_eq_none hr) nnn).symm.trans h
    exact (unchanged_setStack s _ _).trans (unchanged_setPc _ _)
  | jp | jpv0 => cases h; exact unchanged_setPc s _
  | se | sne | ser | sner => cases h; exact unchanged_skipIf s _
  | ldb | addb | mov | or | and | xor | getdt => cases h; exact (unchanged_writeV s _ _).trans (unchanged_advance _)
  | add | sub | shr | subn | shl => cases h; exact unchanged_writeFlagged s _ _ _
  | rnd =>
    cases h
    exact (((unchanged_countRandomDraw s).trans (unchanged_writeV _ _ _)).trans (unchanged_advance _)).mono
      (by simp [writesOf])
  | ldix | addix | font => cases h; exact (unchanged_setI s _).trans (unchanged_advance _)
  | drw =>
    cases (exec_drw hr).symm.trans h
    exact ((unchanged_setFb s _).trans (unchanged_writeV _ _ _)).trans (unchanged_advance _)
  | skp | sknp => cases h; exact ((unchanged_countKeyQuery s).trans (unchanged_skipIf _ _)).mono (by simp [writesOf])
  | waitk => cases h; exact unchanged_setRun s _
  | setdt => cases h; exact (unchanged_setDt s _).trans (unchanged_advance _)
  | setst => cases h; exact (unchanged_setSt s _).trans (unchanged_advance _)
  | bcd => cases (exec_bcd hr).symm.trans h; exact (unchanged_setMem s _).trans (unchanged_advance _)
  | stm => cases (exec_stm hr).symm.trans h; exact (unchanged_setMem s _).trans (unchanged_advance _)
  | ldm => cases (exec_ldm hr).symm.trans h; exact (unchanged_writeRegs s _ _).trans (unchanged_advance _)

/-- What any instruction leaves alone, whether it raises or not: an error writes `ERR` and `RUN` instead (R257). -/
theorem exec_unchanged {i : Instr} {s t : State} (h : exec i s = .next t) :
    UnchangedExcept (writesOf i ++ [.err, .run]) s t := by
  cases hr : raises i s with
  | none => exact (exec_frame hr h).mono (List.subset_append_left _ _)
  | some k =>
    cases (exec_of_raises hr).symm.trans h
    exact (unchanged_raiseError s _ _ _).mono (List.subset_append_right _ _)

/-- Settles O52: each instruction is a chain of updates, and the frame of the chain is the instruction's list. -/
theorem instructionsWriteOnlyTheirState : Obligations.InstructionsWriteOnlyTheirState :=
  fun _ _ _ hr h => exec_frame hr h

end Sys2Proof.Machine
end

section
/-! PROOFS. What follows from the frames: the outside sources, single registers, single bytes (R22, R35, R40, R42, R62). -/

namespace Sys2Proof.Machine

/-! ## The outside sources (R40, R42) -/

theorem mem_writesOf_randomDraws (i : Instr) : .randomDraws ∈ writesOf i ↔ i.mnemonic = "RND" := by
  cases i <;> simp [writesOf, Instr.mnemonic]

theorem mem_writesOf_keyQueries (i : Instr) :
    .keyQueries ∈ writesOf i ↔ i.mnemonic = "SKP" ∨ i.mnemonic = "SKNP" := by
  cases i <;> simp [writesOf, Instr.mnemonic]

/-- An instruction that asks the random source asks it once. -/
theorem exec_randomDraws {i : Instr} {s t : State} (h : exec i s = .next t) (hi : .randomDraws ∈ writesOf i) :
    t.randomDraws = s.randomDraws + 1 := by
  cases i with
  | rnd => cases h; rfl
  | _ => simp [writesOf] at hi

/-- An instruction that asks for a key asks once. -/
theorem exec_keyQueries {i : Instr} {s t : State} (h : exec i s = .next t) (hi : .keyQueries ∈ writesOf i) :
    t.keyQueries = s.keyQueries + 1 := by
  cases i with
  | skp | sknp => cases h; rfl
  | _ => simp [writesOf] at hi

/-- Settles O59: a counter outside the instruction's list is framed, one inside it grows by one. -/
theorem outsideSourcesAskedOnce : Obligations.OutsideSourcesAskedOnce := by
  intro i s t h
  simp only [← mem_writesOf_randomDraws, ← mem_writesOf_keyQueries]
  constructor
  · split
    · exact exec_randomDraws h ‹_›
    · exact exec_unchanged h .randomDraws (by simpa)
  · split
    · exact exec_keyQueries h ‹_›
    · exact exec_unchanged h .keyQueries (by simpa)

/-! ## Registers -/

/-- Settles O53: the register writes of each instruction go to its destination or to VF; an instruction whose list has no
register is framed. -/
theorem registersChangeOnlyAsDestinations : Obligations.RegistersChangeOnlyAsDestinations := by
  intro i s t r h hd hf
  have not_dest {x : RegIdx} (hx : (x == r) = false) : r ≠ x := fun e => by simp [e] at hx
  cases i with
  | ldb | addb | mov | or | and | xor | getdt | rnd => cases h; exact readV_writeV_other _ (not_dest hd) _
  | add | sub | shr | subn | shl =>
    cases h
    rw [readV_writeFlagged, if_neg (not_dest hd), if_neg (hf.resolve_right (by simp [writesFlag]))]
  | drw x y n =>
    cases hr : raises (.drw x y n) s with
    | none =>
      cases (exec_drw hr).symm.trans h
      exact readV_writeV_other _ (hf.resolve_right (by simp [writesFlag])) _
    | some k => cases (exec_of_raises hr).symm.trans h; rfl
  | ldm x =>
    cases hr : raises (.ldm x) s with
    | none =>
      cases (exec_ldm hr).symm.trans h
      have hx : x.toNat < r.toNat := by simpa [namesAsDestination] using hd
      exact (readV_writeRegs s 0 _ (by simp [runLength]; omega) r).trans (dif_neg (by simp [runLength]; omega))
    | some k => cases (exec_of_raises hr).symm.trans h; rfl
  | _ => exact exec_unchanged h .v (by simp [writesOf]) r

/-! ## Memory -/

/-- An instruction stores a run of `storeLength` bytes from `I` on, inside memory, or raises and stores nothing. -/
theorem exec_mem {i : Instr} {s t : State} (h : exec i s = .next t) :
    (∀ a, t.readByte a = s.readByte a) ∨
      ∃ bs : List Byte, bs.length = storeLength i ∧ s.base + bs.length ≤ Config.memSize ∧
        t.mem = s.mem.writeRun s.base bs := by
  have fits {n : Nat} (hn : ¬ outOfRange s.base n = true) : 0 < n → s.base + n ≤ Config.memSize :=
    (outOfRange_false_iff s.base n).1 (Bool.eq_false_iff.2 hn)
  cases hr : raises i s with
  | some k => cases (exec_of_raises hr).symm.trans h; exact .inl fun _ => rfl
  | none =>
    cases i with
    | bcd x =>
      cases (exec_bcd hr).symm.trans h
      exact .inr ⟨bcdDigits (s.readV x), rfl, fits (not_outOfRange (raises_bcd x s ▸ hr)) (Nat.succ_pos _), rfl⟩
    | stm x =>
      cases (exec_stm hr).symm.trans h
      have hl : (s.readRegs x).length = runLength x := length_readRegs s x
      exact .inr ⟨s.readRegs x, hl, hl ▸ fits (not_outOfRange (raises_stm x s ▸ hr)) (Nat.succ_pos _), rfl⟩
    | _ => exact .inl (exec_frame hr h .mem (by simp [writesOf]))

/-- A byte outside what an instruction stores to is unchanged. -/
theorem exec_readByte {i : Instr} {s t : State} {a : Nat} (h : exec i s = .next t) (ha : storesTo i s a = false) :
    t.readByte a = s.readByte a := by
  obtain hsame | ⟨bs, hlen, hfit, hmem⟩ := exec_mem h
  · exact hsame a
  · have hout : ¬ (s.base ≤ a ∧ a < s.base + bs.length) := by simpa [storesTo, hlen] using ha
    rw [State.readByte, hmem, read_writeRun _ _ _ hfit, dif_neg hout, State.readByte]

theorem storesTo_below {i : Instr} {s : State} {a : Nat} (hi : storesAboveBase i s = true) (ha : a < 0x200) :
    storesTo i s a = false := by
  have hb : storeLength i = 0 ∨ Config.progBase ≤ s.base := by simpa [storesAboveBase] using hi
  unfold Config.progBase at hb
  simp only [storesTo, Bool.and_eq_false_iff, decide_eq_false_iff_not]
  omega

/-- Settles O58: a store is one run of bytes from `I` on. -/
theorem memoryChangesOnlyWhereStored : Obligations.MemoryChangesOnlyWhereStored :=
  ⟨fun _ _ _ _ h ha => exec_readByte h ha, fun _ _ _ h hi _ ha => exec_readByte h (storesTo_below hi ha)⟩

end Sys2Proof.Machine
end

section
/-! PROOFS. No instruction reads the sound timer (R237). -/

namespace Sys2Proof.Machine

/-- An instruction that does not write `ST` does the same with another `ST` there. -/
theorem exec_setSt {i : Instr} {s t : State} (a : Byte) (hi : .st ∉ writesOf i) (h : exec i s = .next t) :
    exec i (s.setSt a) = .next (t.setSt a) := by
  cases hr : raises i s with
  | some k => cases (exec_of_raises hr).symm.trans h; exact exec_of_raises (s := s.setSt a) hr
  | none =>
    cases i with
    | ret =>
      have hs := raises_ret_eq_none hr
      cases (exec_ret hs).symm.trans h; exact exec_ret (s := s.setSt a) hs
    | call nnn =>
      have hs := raises_call_eq_none hr
      cases (exec_call hs nnn).symm.trans h; exact exec_call (s := s.setSt a) hs nnn
    | drw => cases (exec_drw hr).symm.trans h; exact exec_drw (s := s.setSt a) hr
    | bcd => cases (exec_bcd hr).symm.trans h; exact exec_bcd (s := s.setSt a) hr
    | stm => cases (exec_stm hr).symm.trans h; exact exec_stm (s := s.setSt a) hr
    | ldm x =>
      obtain ⟨v, hv, hv'⟩ := writeRegs_congr (s := s) (t := s.setSt a) rfl 0 (s.mem.readRun s.base (runLength x))
      cases hv ▸ (exec_ldm hr).symm.trans h
      exact (exec_ldm (s := s.setSt a) hr).trans (congrArg (fun u : State => Host.Outcome.next u.advance) hv')
    | setst => simp [writesOf] at hi
    | _ => cases h; rfl

/-- Settles O60: `SETST` replaces the value, every other instruction carries it along. -/
theorem soundTimerIsReadByNoInstruction : Obligations.SoundTimerIsReadByNoInstruction := by
  intro i s t a h
  by_cases hi : .st ∈ writesOf i
  · cases i with
    | setst x => cases h; exact ⟨(s.setSt (s.readV x)).advance, rfl, fun q _ => Same.refl _ q⟩
    | _ => simp [writesOf] at hi
  · exact ⟨t.setSt a, exec_setSt a hi h, fun q hq => unchanged_setSt t a q (by simpa)⟩

end Sys2Proof.Machine
end

section
/-! PROOFS. Stack entries at and above `SP` influence nothing (R26, R46, U12). Two states related by `SameButDeadStack` are `s`
and `s.setStack s.sp k` with `k` the same as the stack of `s` below `SP`, and the operations of a step commute with that
`setStack`. -/

namespace Sys2Proof.Machine

/-- Other entries at and above `SP` are all that may differ. -/
theorem sameButDeadStack_setStack {s : State} {k : Vector Word 16}
    (hk : ∀ (j : Nat) (hj : j < s.sp.val), s.stk[j] = k[j]) : SameButDeadStack s (s.setStack s.sp k) := by
  have live : s.liveStack = (s.setStack s.sp k).liveStack := by
    have hsp := s.sp.isLt
    apply List.ext_getElem
    · simp [State.liveStack]
    · intro j h1 h2
      have hj : j < s.sp.val := by simp [State.liveStack] at h1; omega
      simpa [State.liveStack] using hk j hj
  exact ⟨rfl, rfl, rfl, rfl, live, rfl, rfl, rfl, rfl, rfl, rfl, rfl, rfl, rfl⟩

theorem SameButDeadStack.refl (s : State) : SameButDeadStack s s := sameButDeadStack_setStack fun _ _ => rfl

/-- Whatever keeps the stack keeps the agreement. -/
theorem sameButDeadStack_of_kept {s s' : State} {k : Vector Word 16} (h : s'.sp = s.sp ∧ s'.stk = s.stk)
    (hk : ∀ (j : Nat) (hj : j < s.sp.val), s.stk[j] = k[j]) : SameButDeadStack s' (s'.setStack s.sp k) := by
  obtain ⟨hsp, hstk⟩ := h
  refine hsp ▸ sameButDeadStack_setStack fun j hj => ?_
  simpa only [hstk] using hk j (hsp ▸ hj)

/-- Two such states differ by a `setStack` that keeps `SP` and the entries below it. -/
theorem SameButDeadStack.exists_setStack {s t : State} (h : SameButDeadStack s t) :
    ∃ k, t = s.setStack s.sp k ∧ ∀ (j : Nat) (hj : j < s.sp.val), s.stk[j] = k[j] := by
  obtain ⟨v, i, pc, sp, live, dt, st, mem, fb, run, err, hostInputs, randomDraws, keyQueries⟩ := h
  refine ⟨t.stk, ?_, fun j hj => ?_⟩
  · cases s; cases t; simp_all [State.setStack]
  · have hsp := s.sp.isLt
    have hget := congrArg (fun l : List Word => l[j]?) live
    simp only [State.liveStack, ← sp] at hget
    simpa [hj, (by omega : j < 16)] using hget

/-- The host reads the same from both (R46). -/
theorem SameButDeadStack.snapshot_eq {s t : State} (h : SameButDeadStack s t) : s.snapshot = t.snapshot := by
  simp only [State.snapshot, h.v, h.i, h.pc, h.sp, h.live, h.dt, h.st, h.fb, h.run, h.err]

/-! ## Instructions -/

/-- An instruction that does not write the stack does the same with other entries there. -/
theorem exec_setStack {i : Instr} {s t : State} (k : Vector Word 16) (hi : .stack ∉ writesOf i)
    (h : exec i s = .next t) : exec i (s.setStack s.sp k) = .next (t.setStack s.sp k) := by
  cases hr : raises i s with
  | some e => cases (exec_of_raises hr).symm.trans h; exact exec_of_raises (s := s.setStack s.sp k) hr
  | none =>
    cases i with
    | drw => cases (exec_drw hr).symm.trans h; exact exec_drw (s := s.setStack s.sp k) hr
    | bcd => cases (exec_bcd hr).symm.trans h; exact exec_bcd (s := s.setStack s.sp k) hr
    | stm => cases (exec_stm hr).symm.trans h; exact exec_stm (s := s.setStack s.sp k) hr
    | ldm x =>
      obtain ⟨v, hv, hv'⟩ :=
        writeRegs_congr (s := s) (t := s.setStack s.sp k) rfl 0 (s.mem.readRun s.base (runLength x))
      cases hv ▸ (exec_ldm hr).symm.trans h
      exact (exec_ldm (s := s.setStack s.sp k) hr).trans (congrArg (fun u : State => Host.Outcome.next u.advance) hv')
    | ret | call => simp [writesOf] at hi
    | _ => cases h; rfl

/-- An instruction keeps the relation: a return reads an entry below `SP`, a call makes its entry live by writing it. -/
theorem exec_sameButDeadStack {s t s' : State} {i : Instr} (hst : SameButDeadStack s t) (h : exec i s = .next s') :
    ∃ t', exec i t = .next t' ∧ SameButDeadStack s' t' := by
  obtain ⟨k, rfl, hk⟩ := hst.exists_setStack
  by_cases hi : .stack ∈ writesOf i
  · cases hr : raises i s with
    | some e =>
      cases (exec_of_raises hr).symm.trans h
      exact ⟨_, exec_of_raises (s := s.setStack s.sp k) hr, sameButDeadStack_setStack hk⟩
    | none =>
      cases i with
      | ret =>
        have hs := raises_ret_eq_none hr
        cases (exec_ret hs).symm.trans h
        have hpc := hk (s.sp.val - 1) (by omega)
        refine ⟨_, exec_ret (s := s.setStack s.sp k) hs, ?_⟩
        simp only [setStack_sp, setStack_stk, ← hpc]
        exact sameButDeadStack_setStack fun j hj => hk j (Nat.lt_of_lt_of_le hj (Nat.sub_le _ _))
      | call nnn =>
        have hs := raises_call_eq_none hr
        cases (exec_call hs nnn).symm.trans h
        refine ⟨_, exec_call (s := s.setStack s.sp k) hs nnn, sameButDeadStack_setStack fun j hj => ?_⟩
        simp only [setPc_stk, setPc_sp, setStack_stk, setStack_sp, setStack_pc, Vector.getElem_set] at hj ⊢
        split
        · rfl
        · exact hk j (by omega)
      | _ => simp [writesOf] at hi
  · exact ⟨_, exec_setStack k hi h, sameButDeadStack_of_kept (exec_unchanged h .stack (by simpa using hi)) hk⟩

/-! ## The whole step -/

/-- A key event reads nothing of the stack. -/
theorem keyStep_setStack (s : State) (k : Vector Word 16) (key : Key) :
    (s.setStack s.sp k).keyStep key = (s.keyStep key).setStack s.sp k := by
  by_cases h : ∃ r, s.run = .awaitingKey r
  · obtain ⟨r, hr⟩ := h
    rw [keyStep_awaiting hr, keyStep_awaiting (s := s.setStack s.sp k) hr]; rfl
  · have hne : ∀ r, s.run ≠ .awaitingKey r := fun r hr => h ⟨r, hr⟩
    rw [keyStep_other hne, keyStep_other (s := s.setStack s.sp k) hne]

theorem keyStep_stack (s : State) (key : Key) : (s.keyStep key).sp = s.sp ∧ (s.keyStep key).stk = s.stk := by
  unfold State.keyStep
  split <;> exact ⟨rfl, rfl⟩

theorem takeUnknown_setStack (s : State) (k : Vector Word 16) (policy : Config.UnknownPolicy) (op : Word) :
    (s.setStack s.sp k).takeUnknown policy op = (s.takeUnknown policy op).setStack s.sp k := by
  cases policy <;> rfl

theorem takeUnknown_stack (s : State) (policy : Config.UnknownPolicy) (op : Word) :
    (s.takeUnknown policy op).sp = s.sp ∧ (s.takeUnknown policy op).stk = s.stk := by
  cases policy <;> exact ⟨rfl, rfl⟩

/-- An instruction step keeps the relation. -/
theorem instructionStep_sameButDeadStack {s t s' : State} (hst : SameButDeadStack s t)
    (h : instructionStep s = .next s') : ∃ t', instructionStep t = .next t' ∧ SameButDeadStack s' t' := by
  obtain ⟨k, rfl, hk⟩ := hst.exists_setStack
  obtain ⟨hr, hs⟩ | ⟨hr, hp, hs⟩ | ⟨op, hr, -, hf, hd, hs⟩ | ⟨op, i, hr, -, hf, hd, hs⟩ := instructionStep_cases s
  · cases hs.symm.trans h
    exact ⟨_, instructionStep_idle hr, hst⟩
  · cases hs.symm.trans h
    exact ⟨_, instructionStep_noFetch (s := s.setStack s.sp k) hr hp, sameButDeadStack_setStack hk⟩
  · cases hs.symm.trans h
    refine ⟨_, (instructionStep_fetch (s := s.setStack s.sp k) hr hf).trans ?_,
      sameButDeadStack_of_kept (takeUnknown_stack s _ op) hk⟩
    simp only [runWord, hd, takeUnknown_setStack]
  · obtain ⟨t', ht, hst'⟩ := exec_sameButDeadStack hst (hs.symm.trans h)
    refine ⟨t', (instructionStep_fetch (s := s.setStack s.sp k) hr hf).trans ?_, hst'⟩
    simpa only [runWord, hd] using ht

/-- A requested step begins alike in both states. -/
theorem stepRequested_sameButDeadStack {s t s0 : State} (hst : SameButDeadStack s t) (h : StepRequested s s0) :
    ∃ t0, StepRequested t t0 ∧ SameButDeadStack s0 t0 := by
  obtain ⟨k, rfl, hk⟩ := hst.exists_setStack
  obtain ⟨hq, rfl⟩ | ⟨rest, hq, rfl⟩ := h
  · exact ⟨_, .inl ⟨hq, rfl⟩, hst⟩
  · exact ⟨_, .inr ⟨rest, hq, rfl⟩, sameButDeadStack_setStack (s := s.setHostInputs rest) hk⟩

/-- A step of any kind keeps the relation; a reset makes the two states equal. -/
theorem step_sameButDeadStack {s t s' : State} (hst : SameButDeadStack s t) (h : step s = .next s') :
    ∃ t', step t = .next t' ∧ SameButDeadStack s' t' := by
  obtain ⟨k, rfl, hk⟩ := hst.exists_setStack
  obtain ⟨s0, hreq, hs⟩ | ⟨rest, hq, hs⟩ | ⟨key, rest, hq, hs⟩ | ⟨program, rest, hq, hs⟩ := step_cases s
  · obtain ⟨t0, hreq', hst0⟩ := stepRequested_sameButDeadStack hst hreq
    rw [step_requested hreq']
    exact instructionStep_sameButDeadStack hst0 (hs.symm.trans h)
  · cases hs.symm.trans h
    exact ⟨_, step_tick (s := s.setStack s.sp k) hq, sameButDeadStack_setStack hk⟩
  · cases hs.symm.trans h
    exact ⟨_,
      (step_keyEvent (s := s.setStack s.sp k) hq).trans (congrArg _ (keyStep_setStack (s.setHostInputs rest) k key)),
      sameButDeadStack_of_kept (keyStep_stack (s.setHostInputs rest) key) hk⟩
  · cases hs.symm.trans h
    exact ⟨_, step_reset (s := s.setStack s.sp k) hq, .refl _⟩

/-- Settles O56: the relation is kept by every step, and related states have one snapshot. -/
theorem deadStackEntriesAreUnobservable : Obligations.DeadStackEntriesAreUnobservable := by
  intro s t s' hst h
  obtain ⟨t', ht, hst'⟩ := step_sameButDeadStack hst h
  exact ⟨t', ht, hst', hst'.snapshot_eq⟩

end Sys2Proof.Machine
end

section
/-! PROOFS. The state after reset (R36), and the invariant of R37: one rule for each update, the rule of each instruction
composed from them, and the other steps. -/

namespace Sys2Proof.Machine

section

variable {s : State}

/-! ## One update at a time -/

theorem Inv.setV (h : Inv s) (a : Vector Byte 16) : Inv (s.setV a) := { h with }
theorem Inv.setFb (h : Inv s) (a : Framebuffer) : Inv (s.setFb a) := { h with }
theorem Inv.setDt (h : Inv s) (a : Byte) : Inv (s.setDt a) := { h with }
theorem Inv.setSt (h : Inv s) (a : Byte) : Inv (s.setSt a) := { h with }
theorem Inv.setHostInputs (h : Inv s) (a : List HostInput) : Inv (s.setHostInputs a) := { h with }
theorem Inv.countRandomDraw (h : Inv s) : Inv s.countRandomDraw := { h with }
theorem Inv.countKeyQuery (h : Inv s) : Inv s.countKeyQuery := { h with }
theorem Inv.setI (h : Inv s) {a : Word} (ha : a.toNat ≤ 0xFFF) : Inv (s.setI a) := { h with index := ha }
theorem Inv.setMem (h : Inv s) {a : Memory} (ha : a.wf = true) : Inv (s.setMem a) := { h with memory := ha }
theorem Inv.setPc (h : Inv s) (hr : s.run = .running) {a : Word} (ha : a.toNat ≤ 0x10FE) : Inv (s.setPc a) :=
  { h with counter := ha, waiting := fun r hw => by cases hr.symm.trans hw }
theorem Inv.setRun_running (h : Inv s) : Inv (s.setRun .running) :=
  { h with waiting := nofun, halted := nofun }
theorem Inv.setRun_awaitingKey (h : Inv s) (hp : s.pc.toNat ≤ 0xFFE) (r : RegIdx) : Inv (s.setRun (.awaitingKey r)) :=
  { h with waiting := fun _ _ => hp, halted := nofun }

/-! ## Errors: what is absent from a record reads zero (R32, R256) -/

theorem errorRecord_opcode {k : ErrorKind} {pc : Word} {op ad : Option Word}
    (h : (errorRecord k pc op ad).opcodeValid = false) : (errorRecord k pc op ad).opcode = 0 := by
  cases op with
  | none => rfl
  | some w => cases h

theorem errorRecord_addr {k : ErrorKind} {pc : Word} {op ad : Option Word}
    (h : (errorRecord k pc op ad).addrValid = false) : (errorRecord k pc op ad).addr = 0 := by
  cases ad with
  | none => rfl
  | some w => cases h

/-- A running core may record an error that names an address just when it is `OutOfRange`. -/
theorem Inv.setErr (h : Inv s) (hr : s.run = .running) {k : ErrorKind} {op ad : Option Word}
    (ha : ad.isSome = (k == .outOfRange)) : Inv (s.setErr (errorRecord k s.pc op ad)) :=
  { h with
    halted := fun hw => by cases hr.symm.trans hw
    opcode := errorRecord_opcode
    address := ⟨ha, errorRecord_addr⟩ }

/-- A fatal kind halts the core. -/
theorem Inv.raiseError (h : Inv s) {k : ErrorKind} {op ad : Option Word} (hk : fatalKind k = true)
    (ha : ad.isSome = (k == .outOfRange)) : Inv (s.raiseError k op ad) :=
  { h with
    waiting := nofun
    halted := fun _ => hk
    opcode := errorRecord_opcode
    address := ⟨ha, errorRecord_addr⟩ }

/-! ## The program counter, registers, the stack -/

theorem toNat_add_le {pc d : Word} (hp : pc.toNat ≤ 0xFFE) (hd : d.toNat ≤ 4) : (pc + d).toNat ≤ 0xFFE + d.toNat := by
  rw [BitVec.toNat_add]; omega

theorem Inv.advance (h : Inv s) (hr : s.run = .running) (hp : s.pc.toNat ≤ 0xFFE) : Inv s.advance :=
  h.setPc hr ((toNat_add_le hp (by decide)).trans (by decide))

theorem Inv.skipIf (h : Inv s) (hr : s.run = .running) (hp : s.pc.toNat ≤ 0xFFE) (c : Bool) : Inv (s.skipIf c) := by
  cases c with
  | true => exact h.setPc hr ((toNat_add_le hp (by decide)).trans (by decide))
  | false => exact h.advance hr hp

theorem Inv.writeV (h : Inv s) (x : RegIdx) (b : Byte) : Inv (s.writeV x b) := h.setV _

theorem Inv.writeFlagged (h : Inv s) (hr : s.run = .running) (hp : s.pc.toNat ≤ 0xFFE) (x : RegIdx) (f : Bool)
    (b : Byte) : Inv (s.writeFlagged x f b) := ((h.writeV flagReg _).writeV x b).advance hr hp

/-- A pushed entry stays within R37's bound. -/
theorem Inv.push (h : Inv s) (hs : s.sp.val < 16) {w : Word} (hw : w.toNat ≤ 0x1000) :
    Inv (s.setStack ⟨s.sp.val + 1, by omega⟩ (s.stk.set s.sp.val w)) :=
  { h with
    returns := fun j hj => by
      simp only [setStack_sp, setStack_stk, Vector.getElem_set] at hj ⊢
      split
      · exact hw
      · exact h.returns j (by omega) }

/-- A popped entry no longer counts. -/
theorem Inv.pop (h : Inv s) : Inv (s.setStack ⟨s.sp.val - 1, by omega⟩ s.stk) :=
  { h with returns := fun j hj => h.returns j (Nat.lt_of_lt_of_le hj (Nat.sub_le _ _)) }

/-! ## The values written to `PC` and `I` (R23, R24) -/

theorem toNat_addrOf_le (nnn : Addr12) : (addrOf nnn).toNat ≤ 0xFFF := by
  have := nnn.isLt
  simp only [addrOf, BitVec.toNat_setWidth]; omega

theorem toNat_zext16_add_addrOf_le (b : Byte) (nnn : Addr12) : (zext16 b + addrOf nnn).toNat ≤ 0x10FE := by
  have := nnn.isLt
  have := b.isLt
  simp only [zext16, addrOf, BitVec.toNat_add, BitVec.toNat_setWidth]; omega

theorem toNat_indexSum_le (i : Word) (b : Byte) : (indexSum i b).toNat ≤ 0xFFF := by
  simp only [indexSum, BitVec.toNat_ofNat]; omega

theorem toNat_glyphAddress_le (b : Byte) : (glyphAddress b).toNat ≤ 0xFFF := by
  have := b.isLt
  have := fontBase_le
  rw [glyphAddress, BitVec.toNat_ofNat]
  exact (Nat.mod_le _ _).trans (by unfold Config.glyphLen; omega)

/-! ## Steps -/

/-- An unknown word halts under the policy that makes its kind fatal, and is stepped over under the other (R258). -/
theorem Inv.takeUnknown (h : Inv s) (hr : s.run = .running) (hp : s.pc.toNat ≤ 0xFFE) (op : Word) :
    Inv (s.takeUnknown Config.unknownPolicy op) := by
  cases hpol : Config.unknownPolicy with
  | strict => exact h.raiseError (by simp [fatalKind, hpol]) rfl
  | permissive => exact (h.setErr hr (k := .unknownOpcode) rfl).advance hr hp

/-- The errors an instruction raises are fatal. -/
theorem fatalKind_of_raises {i : Instr} {k : ErrorKind} (h : raises i s = some k) : fatalKind k = true := by
  cases i with
  | ret | call | drw | bcd | stm | ldm =>
    simp only [raises, Option.ite_none_right_eq_some, Option.some.injEq] at h
    obtain ⟨-, rfl⟩ := h; rfl
  | _ => cases h

theorem isSome_raisedAddr (k : ErrorKind) (s : State) : (raisedAddr k s).isSome = (k == .outOfRange) := by
  cases k <;> rfl

/-- An instruction of a running core keeps the invariant. -/
theorem inv_exec (h : Inv s) (hr : s.run = .running) (hp : s.pc.toNat ≤ 0xFFE) {i : Instr} {t : State}
    (ht : exec i s = .next t) : Inv t := by
  cases hi : raises i s with
  | some k =>
    cases (exec_of_raises hi).symm.trans ht
    exact h.raiseError (fatalKind_of_raises hi) (isSome_raisedAddr k s)
  | none =>
    cases i with
    | cls => cases ht; exact (h.setFb _).advance hr hp
    | ret =>
      have hs := raises_ret_eq_none hi
      cases (exec_ret hs).symm.trans ht
      exact h.pop.setPc hr ((h.returns _ (Nat.sub_lt hs Nat.one_pos)).trans (by decide))
    | call nnn =>
      have hs := raises_call_eq_none hi
      cases (exec_call hs nnn).symm.trans ht
      exact (h.push hs (toNat_add_le hp (by decide))).setPc hr ((toNat_addrOf_le nnn).trans (by decide))
    | jp nnn => cases ht; exact h.setPc hr ((toNat_addrOf_le nnn).trans (by decide))
    | jpv0 nnn => cases ht; exact h.setPc hr (toNat_zext16_add_addrOf_le _ nnn)
    | se | sne | ser | sner => cases ht; exact h.skipIf hr hp _
    | ldb | addb | mov | or | and | xor | getdt => cases ht; exact (h.writeV _ _).advance hr hp
    | add | sub | shr | subn | shl => cases ht; exact h.writeFlagged hr hp _ _ _
    | rnd => cases ht; exact (h.countRandomDraw.writeV _ _).advance hr hp
    | ldix nnn => cases ht; exact (h.setI (toNat_addrOf_le nnn)).advance hr hp
    | addix => cases ht; exact (h.setI (toNat_indexSum_le _ _)).advance hr hp
    | font => cases ht; exact (h.setI (toNat_glyphAddress_le _)).advance hr hp
    | drw => cases (exec_drw hi).symm.trans ht; exact ((h.setFb _).writeV _ _).advance hr hp
    | skp | sknp => cases ht; exact h.countKeyQuery.skipIf hr hp _
    | waitk x => cases ht; exact h.setRun_awaitingKey hp x
    | setdt => cases ht; exact (h.setDt _).advance hr hp
    | setst => cases ht; exact (h.setSt _).advance hr hp
    | bcd => cases (exec_bcd hi).symm.trans ht; exact (h.setMem (wf_writeRun h.memory _ _)).advance hr hp
    | stm => cases (exec_stm hi).symm.trans ht; exact (h.setMem (wf_writeRun h.memory _ _)).advance hr hp
    | ldm x =>
      cases (exec_ldm hi).symm.trans ht
      obtain ⟨v, hv⟩ := writeRegs_eq s 0 (s.mem.readRun s.base (runLength x))
      exact hv ▸ (h.setV v).advance hr hp

theorem inv_instructionStep (h : Inv s) {t : State} (ht : instructionStep s = .next t) : Inv t := by
  obtain ⟨-, hs⟩ | ⟨-, -, hs⟩ | ⟨op, hr, hp, -, -, hs⟩ | ⟨op, i, hr, hp, -, -, hs⟩ := instructionStep_cases s
  · cases hs.symm.trans ht; exact h
  · cases hs.symm.trans ht; exact h.raiseError rfl rfl
  · cases hs.symm.trans ht; exact h.takeUnknown hr hp op
  · exact inv_exec h hr hp (hs.symm.trans ht)

/-- The wait that a key event ends began at an address that can be fetched from, so `PC + 2` stays in bounds. -/
theorem inv_keyStep (h : Inv s) (key : Key) : Inv (s.keyStep key) := by
  by_cases hw : ∃ r, s.run = .awaitingKey r
  · obtain ⟨r, hr⟩ := hw
    rw [keyStep_awaiting hr]
    exact (h.setRun_running.writeV r _).advance rfl (h.waiting r hr)
  · rw [keyStep_other fun r hr => hw ⟨r, hr⟩]; exact h

end

/-- Settles O51: field by field. -/
theorem resetMeetsTheInvariant : Obligations.ResetMeetsTheInvariant where
  index := by decide
  counter := by decide
  returns := nofun
  waiting := nofun
  halted := nofun
  opcode _ := rfl
  address := ⟨rfl, fun _ => rfl⟩
  memory := rfl

/-- A reset state meets the invariant, whether its program fits or not (R290, R292). -/
theorem inv_resetState (program : List Byte) : Inv (resetState program) := by
  unfold resetState
  split
  case isTrue hfit =>
    have hlen : program.length ≤ Config.maxProg := of_decide_eq_true hfit
    exact resetMeetsTheInvariant.setMem (wf_image _ _ (Nat.add_le_add_left hlen Config.progBase))
  case isFalse =>
    exact resetMeetsTheInvariant.raiseError (k := .loadError) (op := none) (ad := none) rfl rfl

theorem inv_hostReset (s : State) (program : List Byte) : Inv (s.hostReset program) := { inv_resetState program with }

/-- Settles O50: case by case of what the host delivers. -/
theorem everyStepKeepsTheInvariant : Obligations.EveryStepKeepsTheInvariant := by
  intro s t h ht
  obtain ⟨s0, hreq, hs⟩ | ⟨rest, -, hs⟩ | ⟨key, rest, -, hs⟩ | ⟨program, rest, -, hs⟩ := step_cases s
  · obtain ⟨rest, rfl⟩ := stepRequested_same hreq
    exact inv_instructionStep (h.setHostInputs rest) (hs.symm.trans ht)
  · cases hs.symm.trans ht; exact ((h.setHostInputs rest).setDt _).setSt _
  · cases hs.symm.trans ht; exact inv_keyStep (h.setHostInputs rest) key
  · cases hs.symm.trans ht; exact inv_hostReset _ program

/-- Settles O15: memory lists nothing, so a byte reads as the font or as zero. -/
theorem resetStateValues : Obligations.ResetStateValues :=
  ⟨rfl, rfl, fun r => by simp [State.readV, State.reset], rfl, rfl, rfl, pixel_blank, rfl, rfl,
    fun _ ha => initial_of_progBase_le ha, initial_font⟩

end Sys2Proof.Machine
end

section
/-! PROOFS. The memory family (20_memory.md): error entries with their whole record (R66, R129, R142, R143, R256), stored
bytes that a fetch or a load gets back (R64, R73), and the parity of `PC` (R65). -/

namespace Sys2Proof.Machine

/-! ## Error entries -/

/-- An instruction that raises leaves the record of its error and changes nothing else (R256, R257). -/
theorem exec_raised {i : Instr} {s : State} {k : ErrorKind} (h : raises i s = some k) :
    ∃ t, exec i s = .next t ∧ Raised s t (errorRecord k s.pc (some (encode i)) (raisedAddr k s)) :=
  ⟨_, exec_of_raises h, rfl, rfl, unchanged_raiseError s _ _ _⟩

/-- Settles O37: each clause names the condition under which `raises` answers its error. -/
theorem errorEntryAndRecord : Obligations.ErrorEntryAndRecord := by
  intro nnn x y n s
  refine ⟨fun h => ?call, fun h => ?ret, fun h => ?bcd, fun h => ?stm, fun h => ?ldm, fun hn h => ?drw⟩
  case call => exact exec_raised (i := .call nnn) (if_pos h)
  case ret => exact exec_raised (i := .ret) (if_pos h)
  case bcd => exact exec_raised (i := .bcd x) (if_pos ⟨Nat.succ_pos 2, h⟩)
  case stm => exact exec_raised (i := .stm x) (if_pos ⟨Nat.succ_pos _, h⟩)
  case ldm => exact exec_raised (i := .ldm x) (if_pos ⟨Nat.succ_pos _, h⟩)
  case drw => exact exec_raised (i := .drw x y n) (if_pos ⟨hn, h⟩)

/-! ## Stored bytes -/

/-- A run `V[0..x]` that fits in memory from `I` on raises nothing when it is stored or loaded (R66). -/
theorem not_outOfRange_runLength {x : RegIdx} {s : State} (hfit : s.base + x.toNat ≤ 0xFFF) :
    outOfRange s.base (runLength x) = false :=
  (outOfRange_false_iff _ _).2 fun _ => Nat.succ_le_succ hfit

theorem raises_stm_of_fits {x : RegIdx} {s : State} (hfit : s.base + x.toNat ≤ 0xFFF) : raises (.stm x) s = none := by
  rw [raises_stm, not_outOfRange_runLength hfit]; rfl

theorem raises_ldm_of_fits {x : RegIdx} {s : State} (hfit : s.base + x.toNat ≤ 0xFFF) : raises (.ldm x) s = none := by
  rw [raises_ldm, not_outOfRange_runLength hfit]; rfl

/-- `STM` puts `V[k]` at `I + k`, for each register of its run (R194). -/
theorem readByte_of_stm {x k : RegIdx} {s t : State} (hfit : s.base + x.toNat ≤ 0xFFF)
    (h : exec (.stm x) s = .next t) (hk : k.toNat ≤ x.toNat) : t.readByte (s.base + k.toNat) = s.readV k := by
  cases (exec_stm (raises_stm_of_fits hfit)).symm.trans h
  have hlen := length_readRegs s x
  have hmem : s.base + (s.readRegs x).length ≤ Config.memSize := hlen ▸ Nat.succ_le_succ hfit
  rw [State.readByte, advance_mem, setMem_mem, read_writeRun _ _ _ hmem, dif_pos (by omega),
    getElem_readRegs, Nat.add_sub_cancel_left, BitVec.ofNat_toNat, BitVec.setWidth_eq]

/-- `LDM` puts the byte at `I + k` into `V[k]`, for each register of its run (R195). -/
theorem readV_of_ldm {x k : RegIdx} {s t : State} (hfit : s.base + x.toNat ≤ 0xFFF)
    (h : exec (.ldm x) s = .next t) (hk : k.toNat ≤ x.toNat) : t.readV k = s.readByte (s.base + k.toNat) := by
  cases (exec_ldm (raises_ldm_of_fits hfit)).symm.trans h
  have hx := x.isLt
  have hlen : (s.mem.readRun s.base (runLength x)).length = x.toNat + 1 := length_readRun _ _ _
  rw [readV_congr (advance_v _), readV_writeRegs _ _ _ (by omega), dif_pos (by omega), getElem_readRun]
  rfl

/-- Settles O38: the fetch reads the two bytes that the store put at `I + k` and `I + k + 1`. -/
theorem storedBytesAreFetched : Obligations.StoredBytesAreFetched := by
  intro x k s t u hfit hk h hmem hpc
  have hx := x.isLt
  have hsucc : (k + 1).toNat = k.toNat + 1 :=
    (BitVec.toNat_add k 1).trans (Nat.mod_eq_of_lt (show k.toNat + 1 < 16 by omega))
  have hbyte (j : RegIdx) (hj : j.toNat ≤ x.toNat) : u.readByte (s.base + j.toNat) = s.readV j := by
    rw [State.readByte, hmem]; exact readByte_of_stm hfit h hj
  have hhigh := hbyte k (by omega)
  have hlow := hbyte (k + 1) (by omega)
  rw [hsucc, ← Nat.add_assoc] at hlow
  exact ⟨_, fetch_eq_some (by omega), by rw [toNat_wordOfBytes, hpc, hhigh, hlow]⟩

/-- Settles O39: the load reads, for each register, the byte that the store put there. -/
theorem storeThenLoadRestoresRegisters : Obligations.StoreThenLoadRestoresRegisters := by
  intro x s t u hfit h hmem hi
  have hbase : u.base = s.base := congrArg BitVec.toNat hi
  have hfit' : u.base + x.toNat ≤ 0xFFF := hbase ▸ hfit
  have hload := exec_ldm (raises_ldm_of_fits hfit')
  refine ⟨_, hload, fun k hk => ?_⟩
  rw [readV_of_ldm hfit' hload hk, State.readByte, hmem, hbase]
  exact readByte_of_stm hfit h hk

/-! ## The parity of the program counter -/

/-- An instruction that is no jump, call or return moves `PC` by 0 (it raises, or waits for a key), 2 or 4 (R65, R127). -/
theorem exec_pc_of_not_jumps {i : Instr} {s t : State} (hi : jumps i = false) (h : exec i s = .next t) :
    t.pc = s.pc ∨ t.pc = s.pc + 2 ∨ t.pc = s.pc + 4 := by
  have skip (c : Bool) : (s.skipIf c).pc = s.pc + 2 ∨ (s.skipIf c).pc = s.pc + 4 := by cases c <;> simp
  cases hr : raises i s with
  | some k => cases (exec_of_raises hr).symm.trans h; exact .inl rfl
  | none =>
    cases i with
    | ret | jp | call | jpv0 => cases hi
    | waitk => cases h; exact .inl rfl
    | se | sne | ser | sner | skp | sknp => cases h; exact .inr (skip _)
    | drw => cases (exec_drw hr).symm.trans h; exact .inr (.inl rfl)
    | bcd => cases (exec_bcd hr).symm.trans h; exact .inr (.inl rfl)
    | stm => cases (exec_stm hr).symm.trans h; exact .inr (.inl rfl)
    | ldm =>
      cases (exec_ldm hr).symm.trans h
      exact .inr (.inl (congrArg (· + 2) (unchanged_writeRegs s _ _ .pc (by simp))))
    | _ => cases h; exact .inr (.inl rfl)

/-- The modulus of `PC` is even, so adding an even number keeps its parity, with or without a wrap (R65). -/
theorem toNat_add_even {pc d : Word} (hpc : pc.toNat % 2 = 0) (hd : d.toNat % 2 = 0) : (pc + d).toNat % 2 = 0 := by
  rw [BitVec.toNat_add]; omega

/-- Settles O57: such an instruction adds 0, 2 or 4 to `PC`, all of them even. -/
theorem straightCodeKeepsPcEven : Obligations.StraightCodeKeepsPcEven := by
  intro i s t hi hs h
  simp only [pcEven, beq_iff_eq] at hs ⊢
  obtain e | e | e := exec_pc_of_not_jumps hi h <;> rw [e]
  · exact hs
  · exact toNat_add_even hs rfl
  · exact toNat_add_even hs rfl

end Sys2Proof.Machine
end

section
/-! SUPPORT. Family RowMatch for all instructions at once. -/

namespace Sys2Proof.Laws.RowMatch

/-- The encoded word of every instruction matches the row of its mnemonic. -/
theorem all : ∀ i : Instr, Statement i
  | .cls => cls
  | .ret => ret
  | .jp _ => jp _
  | .call _ => call _
  | .se _ _ => se _ _
  | .sne _ _ => sne _ _
  | .ser _ _ => ser _ _
  | .ldb _ _ => ldb _ _
  | .addb _ _ => addb _ _
  | .mov _ _ => mov _ _
  | .or _ _ => or _ _
  | .and _ _ => and _ _
  | .xor _ _ => xor _ _
  | .add _ _ => add _ _
  | .sub _ _ => sub _ _
  | .shr _ _ => shr _ _
  | .subn _ _ => subn _ _
  | .shl _ _ => shl _ _
  | .sner _ _ => sner _ _
  | .ldix _ => ldix _
  | .jpv0 _ => jpv0 _
  | .rnd _ _ => rnd _ _
  | .drw _ _ _ => drw _ _ _
  | .skp _ => skp _
  | .sknp _ => sknp _
  | .getdt _ => getdt _
  | .waitk _ => waitk _
  | .setdt _ => setdt _
  | .setst _ => setst _
  | .addix _ => addix _
  | .font _ => font _
  | .bcd _ => bcd _
  | .stm _ => stm _
  | .ldm _ => ldm _

end Sys2Proof.Laws.RowMatch
end

section
/-! SUPPORT. The decoder and the encoder are inverse to each other (30_encoding.md R105), and every word a row of R96 matches
is the encoding of an instruction with the row's mnemonic. -/

namespace Sys2Proof

/-! ## Decoding an encoded word -/

@[simp] theorem decodeWord_encode (i : Instr) : decodeWord (encode i) = .known i := by
  cases i with
  | cls | ret => rfl
  | jp | call | ldix | jpv0 | se | sne | ldb | addb | rnd | drw => simp [encode, decodeWord]
  | ser => simp [encode, decodeWord, decode5]
  | sner => simp [encode, decodeWord, decode9]
  | mov | or | and | xor | add | sub | shr | subn | shl => simp [encode, decodeWord, decode8]
  | skp | sknp => simp [encode, decodeWord, decodeE]
  | getdt | waitk | setdt | setst | addix | font | bcd | stm | ldm => simp [encode, decodeWord, decodeF]

/-! ## A word whose literal fields are known is put together from the others

The literal fields are compared as numbers, which is how the decoder selects them (R98). -/

section
variable {op : Word} {t n : Nibble} {nn : Byte} (ht : (fieldT op).toNat = t.toNat)
include ht

theorem wordNNN_of_fieldT : wordNNN t (fieldNNN op) = op := by
  rw [← BitVec.eq_of_toNat_eq ht, wordNNN_fields]

theorem wordXNN_of_fieldT : wordXNN t (fieldX op) (fieldNN op) = op := by
  rw [← BitVec.eq_of_toNat_eq ht, wordXNN_fields]

theorem wordXNN_of_fields (hnn : (fieldNN op).toNat = nn.toNat) : wordXNN t (fieldX op) nn = op := by
  rw [← BitVec.eq_of_toNat_eq hnn, wordXNN_of_fieldT ht]

theorem wordXYN_of_fieldT : wordXYN t (fieldX op) (fieldY op) (fieldN op) = op := by
  rw [← BitVec.eq_of_toNat_eq ht, wordXYN_fields]

theorem wordXYN_of_fields (hn : (fieldN op).toNat = n.toNat) : wordXYN t (fieldX op) (fieldY op) n = op := by
  rw [← BitVec.eq_of_toNat_eq hn, wordXYN_of_fieldT ht]

end

/-! ## Encoding a decoded instruction, one lemma a decoder -/

section
variable {op : Word} {i : Instr}

theorem encode_of_decode0 (h : decode0 op = .known i) : encode i = op := by
  unfold decode0 at h
  split at h
  next hop => cases h; exact hop.symm
  split at h <;> cases h
  next hop => exact hop.symm

theorem encode_of_decode5 (ht : (fieldT op).toNat = 0x5) (h : decode5 op = .known i) : encode i = op := by
  unfold decode5 at h
  split at h <;> cases h
  next hn => exact wordXYN_of_fields ht (congrArg BitVec.toNat hn)

theorem encode_of_decode8 (ht : (fieldT op).toNat = 0x8) (h : decode8 op = .known i) : encode i = op := by
  unfold decode8 at h
  split at h <;> cases h
  all_goals exact wordXYN_of_fields ht ‹(fieldN op).toNat = _›

theorem encode_of_decode9 (ht : (fieldT op).toNat = 0x9) (h : decode9 op = .known i) : encode i = op := by
  unfold decode9 at h
  split at h <;> cases h
  next hn => exact wordXYN_of_fields ht (congrArg BitVec.toNat hn)

theorem encode_of_decodeE (ht : (fieldT op).toNat = 0xE) (h : decodeE op = .known i) : encode i = op := by
  unfold decodeE at h
  split at h <;> cases h
  all_goals exact wordXNN_of_fields ht ‹(fieldNN op).toNat = _›

theorem encode_of_decodeF (ht : (fieldT op).toNat = 0xF) (h : decodeF op = .known i) : encode i = op := by
  unfold decodeF at h
  split at h <;> cases h
  all_goals exact wordXNN_of_fields ht ‹(fieldNN op).toNat = _›

/-- The arms stand in the order of the top nibble, 0x0 to 0xF (R98). -/
theorem encode_of_decodeWord (h : decodeWord op = .known i) : encode i = op := by
  have hlt := (fieldT op).isLt
  unfold decodeWord at h
  split at h
  next => exact encode_of_decode0 h
  next ht => cases h; exact wordNNN_of_fieldT ht
  next ht => cases h; exact wordNNN_of_fieldT ht
  next ht => cases h; exact wordXNN_of_fieldT ht
  next ht => cases h; exact wordXNN_of_fieldT ht
  next ht => exact encode_of_decode5 ht h
  next ht => cases h; exact wordXNN_of_fieldT ht
  next ht => cases h; exact wordXNN_of_fieldT ht
  next ht => exact encode_of_decode8 ht h
  next ht => exact encode_of_decode9 ht h
  next ht => cases h; exact wordNNN_of_fieldT ht
  next ht => cases h; exact wordNNN_of_fieldT ht
  next ht => cases h; exact wordXNN_of_fieldT ht
  next ht => cases h; exact wordXYN_of_fieldT ht
  next ht => exact encode_of_decodeE ht h
  next => exact encode_of_decodeF (by grind) h

end

/-! ## A word that has a row's literal bits, under each mask of R92 -/

section
variable {op : Word} {t n : Nibble} {nn : Byte}

theorem fieldT_of_maskT (h : op &&& 0xF000 = wordNNN t 0) : (fieldT op).toNat = t.toNat := by
  rw [and_maskT] at h
  simpa using congrArg (fun w => (fieldT w).toNat) h

theorem wordXYN_of_maskTN (h : op &&& 0xF00F = wordXYN t 0 0 n) : wordXYN t (fieldX op) (fieldY op) n = op := by
  rw [and_maskTN] at h
  have ht : fieldT op = t := by simpa using congrArg fieldT h
  have hn : fieldN op = n := by simpa using congrArg fieldN h
  rw [← ht, ← hn, wordXYN_fields]

theorem wordXNN_of_maskTNN (h : op &&& 0xF0FF = wordXNN t 0 nn) : wordXNN t (fieldX op) nn = op := by
  rw [and_maskTNN] at h
  have ht : fieldT op = t := by simpa using congrArg fieldT h
  have hnn : fieldNN op = nn := by simpa using congrArg fieldNN h
  rw [← ht, ← hnn, wordXNN_fields]

end

/-! ## The words a row matches -/

/-- Every word the row matches is the encoding of an instruction with the row's mnemonic. -/
def RowEncodes (row : OpcodeRow) : Prop :=
  ∀ op : Word, op &&& row.mask = row.value → ∃ i, encode i = op ∧ i.mnemonic = row.mnemonic

theorem rowEncodes_fixed {row : OpcodeRow} (i : Instr) (hmask : row.mask = 0xFFFF) (hvalue : encode i = row.value)
    (hname : i.mnemonic = row.mnemonic) : RowEncodes row :=
  fun op h => ⟨i, by rw [hvalue, ← h, hmask]; exact BitVec.and_allOnes, hname⟩

theorem rowEncodes_low : ∀ row ∈ opcodeRowsLow, RowEncodes row := by
  simp only [opcodeRowsLow, List.forall_mem_cons, List.not_mem_nil, false_imp_iff, implies_true, and_true]
  exact ⟨rowEncodes_fixed .cls rfl rfl rfl, rowEncodes_fixed .ret rfl rfl rfl,
    fun _ h => ⟨.jp _, wordNNN_of_fieldT (fieldT_of_maskT h), rfl⟩,
    fun _ h => ⟨.call _, wordNNN_of_fieldT (fieldT_of_maskT h), rfl⟩,
    fun _ h => ⟨.se _ _, wordXNN_of_fieldT (fieldT_of_maskT h), rfl⟩,
    fun _ h => ⟨.sne _ _, wordXNN_of_fieldT (fieldT_of_maskT h), rfl⟩,
    fun _ h => ⟨.ser _ _, wordXYN_of_maskTN h, rfl⟩,
    fun _ h => ⟨.ldb _ _, wordXNN_of_fieldT (fieldT_of_maskT h), rfl⟩,
    fun _ h => ⟨.addb _ _, wordXNN_of_fieldT (fieldT_of_maskT h), rfl⟩⟩

theorem rowEncodes_alu : ∀ row ∈ opcodeRowsAlu, RowEncodes row := by
  simp only [opcodeRowsAlu, List.forall_mem_cons, List.not_mem_nil, false_imp_iff, implies_true, and_true]
  exact ⟨fun _ h => ⟨.mov _ _, wordXYN_of_maskTN h, rfl⟩, fun _ h => ⟨.or _ _, wordXYN_of_maskTN h, rfl⟩,
    fun _ h => ⟨.and _ _, wordXYN_of_maskTN h, rfl⟩, fun _ h => ⟨.xor _ _, wordXYN_of_maskTN h, rfl⟩,
    fun _ h => ⟨.add _ _, wordXYN_of_maskTN h, rfl⟩, fun _ h => ⟨.sub _ _, wordXYN_of_maskTN h, rfl⟩,
    fun _ h => ⟨.shr _ _, wordXYN_of_maskTN h, rfl⟩, fun _ h => ⟨.subn _ _, wordXYN_of_maskTN h, rfl⟩,
    fun _ h => ⟨.shl _ _, wordXYN_of_maskTN h, rfl⟩⟩

theorem rowEncodes_mid : ∀ row ∈ opcodeRowsMid, RowEncodes row := by
  simp only [opcodeRowsMid, List.forall_mem_cons, List.not_mem_nil, false_imp_iff, implies_true, and_true]
  exact ⟨fun _ h => ⟨.sner _ _, wordXYN_of_maskTN h, rfl⟩,
    fun _ h => ⟨.ldix _, wordNNN_of_fieldT (fieldT_of_maskT h), rfl⟩,
    fun _ h => ⟨.jpv0 _, wordNNN_of_fieldT (fieldT_of_maskT h), rfl⟩,
    fun _ h => ⟨.rnd _ _, wordXNN_of_fieldT (fieldT_of_maskT h), rfl⟩,
    fun _ h => ⟨.drw _ _ _, wordXYN_of_fieldT (fieldT_of_maskT h), rfl⟩,
    fun _ h => ⟨.skp _, wordXNN_of_maskTNN h, rfl⟩, fun _ h => ⟨.sknp _, wordXNN_of_maskTNN h, rfl⟩⟩

theorem rowEncodes_high : ∀ row ∈ opcodeRowsHigh, RowEncodes row := by
  simp only [opcodeRowsHigh, List.forall_mem_cons, List.not_mem_nil, false_imp_iff, implies_true, and_true]
  exact ⟨fun _ h => ⟨.getdt _, wordXNN_of_maskTNN h, rfl⟩, fun _ h => ⟨.waitk _, wordXNN_of_maskTNN h, rfl⟩,
    fun _ h => ⟨.setdt _, wordXNN_of_maskTNN h, rfl⟩, fun _ h => ⟨.setst _, wordXNN_of_maskTNN h, rfl⟩,
    fun _ h => ⟨.addix _, wordXNN_of_maskTNN h, rfl⟩, fun _ h => ⟨.font _, wordXNN_of_maskTNN h, rfl⟩,
    fun _ h => ⟨.bcd _, wordXNN_of_maskTNN h, rfl⟩, fun _ h => ⟨.stm _, wordXNN_of_maskTNN h, rfl⟩,
    fun _ h => ⟨.ldm _, wordXNN_of_maskTNN h, rfl⟩⟩

theorem rowEncodes_of_mem {row : OpcodeRow} (hrow : row ∈ opcodeTable) : RowEncodes row := by
  simp only [opcodeTable, List.mem_append] at hrow
  obtain ((h | h) | h) | h := hrow
  · exact rowEncodes_low row h
  · exact rowEncodes_alu row h
  · exact rowEncodes_mid row h
  · exact rowEncodes_high row h

/-! ## The map and the decoder -/

/-- No two rows of R96 carry the same mnemonic. -/
theorem row_eq_of_mnemonic_eq {r1 r2 : OpcodeRow} (h1 : r1 ∈ opcodeTable) (h2 : r2 ∈ opcodeTable)
    (h : r1.mnemonic = r2.mnemonic) : r1 = r2 :=
  List.inj_on_of_nodup_map (show (opcodeTable.map OpcodeRow.mnemonic).Nodup by decide) h1 h2 h

theorem known_of_row {op : Word} {row : OpcodeRow} (hrow : row ∈ opcodeTable) (h : op &&& row.mask = row.value) :
    ∃ i, decodeWord op = .known i ∧ i.mnemonic = row.mnemonic := by
  obtain ⟨i, rfl, hname⟩ := rowEncodes_of_mem hrow op h
  exact ⟨i, decodeWord_encode i, hname⟩

theorem row_of_known {op : Word} {i : Instr} (h : decodeWord op = .known i) :
    ∃ row, row ∈ opcodeTable ∧ row.mnemonic = i.mnemonic ∧ op &&& row.mask = row.value := by
  obtain ⟨row, hrow, hname, hmatch⟩ := Laws.RowMatch.all i
  rw [encode_of_decodeWord h] at hmatch
  exact ⟨row, hrow, hname, eq_of_beq hmatch⟩

/-! ## The statements -/

/-- Settles O2, decoder by decoder: the fields of an encoded word are the operands it was made of. -/
theorem decodeOfEncodeIsTheInstruction : Obligations.DecodeOfEncodeIsTheInstruction := decodeWord_encode

/-- Settles O3, arm by arm of the decoder: the word is put together again from the fields the arm read. -/
theorem encodeOfDecodeIsTheWord : Obligations.EncodeOfDecodeIsTheWord := fun _ _ => encode_of_decodeWord

/-- Settles O4: a matched word is an encoding, and an instruction's word matches the only row with its mnemonic. -/
theorem decoderAgreesWithOpcodeMap : Obligations.DecoderAgreesWithOpcodeMap := by
  refine ⟨fun op row hrow => ⟨known_of_row hrow, ?_⟩, fun op r1 r2 hr1 hr2 h1 h2 => ?_⟩
  · rintro ⟨i, hi, hname⟩
    obtain ⟨row', hrow', hname', hmatch⟩ := row_of_known hi
    rwa [row_eq_of_mnemonic_eq hrow hrow' (hname.symm.trans hname'.symm)]
  · obtain ⟨i, hi, hname1⟩ := known_of_row hr1 h1
    obtain ⟨j, hj, hname2⟩ := known_of_row hr2 h2
    cases hi.symm.trans hj
    exact row_eq_of_mnemonic_eq hr1 hr2 (hname1.symm.trans hname2)

/-- Settles O5: a row that matches makes the word known, and a known word has a row that matches. -/
theorem unmatchedWordsAreUnknown : Obligations.UnmatchedWordsAreUnknown := by
  intro op op'
  constructor
  · intro h
    refine ⟨unknown_carries_word h, fun row hrow hmatch => ?_⟩
    obtain ⟨i, hi, -⟩ := known_of_row hrow hmatch
    cases hi.symm.trans h
  · rintro ⟨rfl, hnone⟩
    cases hd : decodeWord op' with
    | known i =>
      obtain ⟨row, hrow, -, hmatch⟩ := row_of_known hd
      exact absurd hmatch (hnone row hrow)
    | unknown w => rw [unknown_carries_word hd]

/-- Settles O1: ten fixed words, each run through the decoder. -/
theorem sampleWordsDecode : Obligations.SampleWordsDecode := by
  unfold Obligations.SampleWordsDecode
  decide

end Sys2Proof
end

section
/-! PROOFS. The step (40_cycle_and_dispatch.md): a next state for every state (R126, R259), what a requested step of a running
core is (R124, R125, R131), what a step is while the core waits or is halted (R121), and the parking jump (R132). -/

namespace Sys2Proof.Machine

/-! ## A next state for every state -/

/-- An instruction answers a next state whether it raises or not (R126, R257). -/
theorem exec_next (i : Instr) (s : State) : ∃ t, exec i s = .next t := by
  cases hr : raises i s with
  | some k => exact ⟨_, exec_of_raises hr⟩
  | none =>
    cases i with
    | ret => exact ⟨_, exec_ret (raises_ret_eq_none hr)⟩
    | call nnn => exact ⟨_, exec_call (raises_call_eq_none hr) nnn⟩
    | drw => exact ⟨_, exec_drw hr⟩
    | bcd => exact ⟨_, exec_bcd hr⟩
    | stm => exact ⟨_, exec_stm hr⟩
    | ldm => exact ⟨_, exec_ldm hr⟩
    | _ => exact ⟨_, rfl⟩

/-- So does an instruction step: only its `exec` could have answered anything else. -/
theorem instructionStep_next (s : State) : ∃ t, instructionStep s = .next t := by
  obtain ⟨-, hs⟩ | ⟨-, -, hs⟩ | ⟨op, -, -, -, -, hs⟩ | ⟨op, i, -, -, -, -, hs⟩ := instructionStep_cases s
  · exact ⟨_, hs⟩
  · exact ⟨_, hs⟩
  · exact ⟨_, hs⟩
  · exact hs ▸ exec_next i s

/-- Settles O10: case by case of what the host delivers. -/
theorem everyStepAnswersANextState : Obligations.EveryStepAnswersANextState := by
  intro s
  obtain ⟨s0, -, hs⟩ | ⟨rest, -, hs⟩ | ⟨key, rest, -, hs⟩ | ⟨program, rest, -, hs⟩ := step_cases s
  · exact hs ▸ instructionStep_next s0
  · exact ⟨_, hs⟩
  · exact ⟨_, hs⟩
  · exact ⟨_, hs⟩

/-! ## Waiting and halted -/

/-- A step request does nothing unless the core runs (R121). -/
theorem step_requested_idle {s s0 : State} (h : StepRequested s s0) (hr : s.run ≠ .running) : step s = .next s0 := by
  obtain ⟨rest, rfl⟩ := stepRequested_same h
  exact (step_requested h).trans (instructionStep_idle hr)

/-- Whatever the host delivers to a halted core but a reset, the core stays halted (R121). -/
theorem step_halted {s : State} {e : HostInput} {rest : List HostInput} (hr : s.run = .halted)
    (hq : s.hostInputs = e :: rest) (he : ∀ program, e ≠ .reset program) : ∃ t, step s = .next t ∧ t.run = .halted := by
  cases e with
  | stepRequest => exact ⟨_, step_requested_idle (.inr ⟨rest, hq, rfl⟩) (by simp [hr]), hr⟩
  | tick => exact ⟨_, step_tick hq, hr⟩
  | keyEvent k =>
    have hdrop : (s.setHostInputs rest).keyStep k = s.setHostInputs rest := keyStep_other (by simp [hr]) k
    exact ⟨_, (step_keyEvent hq).trans (congrArg _ hdrop), hr⟩
  | reset program => exact absurd rfl (he program)

/-- A reset with a program that fits leaves a running core (R290). -/
theorem hostReset_run {program : List Byte} (hfit : program.length ≤ Config.maxProg) (s : State) :
    (s.hostReset program).run = .running := by
  have hload : resetState program = State.reset.setMem (Memory.image Config.progBase program) :=
    if_pos (decide_eq_true hfit)
  exact congrArg State.run hload

/-- Settles O9: each clause is the step of one host input. -/
theorem noStepWhileWaitingOrHalted : Obligations.NoStepWhileWaitingOrHalted := by
  refine ⟨fun s s0 h hr => ?request, fun s r k rest hr hq => ?key, fun s e rest hr hq he => ?halted,
    fun s program rest hr hq hfit => ?reset, fun s rest hr hq => ?tick⟩
  case request => exact step_requested_idle h hr
  case key => exact ⟨_, (step_keyEvent hq).trans (congrArg _ (keyStep_awaiting (s := s.setHostInputs rest) hr k)), rfl⟩
  case halted => exact step_halted hr hq he
  case reset => exact ⟨_, step_reset hq, hostReset_run hfit _⟩
  case tick => exact step_tick hq

/-! ## A requested step of a running core -/

/-- Settles O6: fetch, decode and dispatch see the same two bytes before and after the request is taken off the queue. -/
theorem stepRunsTheDecodedInstruction : Obligations.StepRunsTheDecodedInstruction := by
  intro s s0 op i h hr hf hd
  obtain ⟨rest, rfl⟩ := stepRequested_same h
  have hfetch : (s.setHostInputs rest).fetch = some op := fetch_of_fetchedWord hf
  rw [step_requested h, instructionStep_fetch (s := s.setHostInputs rest) hr hfetch, runWord, hd]

/-- Settles O7: the failed fetch is an error entry without an opcode. -/
theorem fetchAboveMemoryRaises : Obligations.FetchAboveMemoryRaises := by
  intro s s0 h hr hp
  obtain ⟨rest, rfl⟩ := stepRequested_same h
  exact ⟨_, (step_requested h).trans (instructionStep_noFetch hr hp), rfl, rfl, unchanged_raiseError _ _ _ _⟩

/-! ## The parking jump -/

theorem toNat_addrOf (nnn : Addr12) : (addrOf nnn).toNat = nnn.toNat :=
  BitVec.toNat_setWidth_of_le (by decide)

/-- Settles O26: the jump writes to `PC` the value it has. -/
theorem jumpToItselfChangesNothing : Obligations.JumpToItselfChangesNothing := by
  intro nnn s h
  have hpc : addrOf nnn = s.pc := BitVec.eq_of_toNat_eq ((toNat_addrOf nnn).trans h.symm)
  exact congrArg (fun a => Host.Outcome.next (s.setPc a)) hpc

end Sys2Proof.Machine
end

section
/-! PROOFS. The flow and stack family (41_flow_and_stack.md): jumps, the comparing skips, call and return. -/

namespace Sys2Proof.Machine

/-! ## Jumps (R145, R146) -/

/-- The sum of a byte and a 12-bit address fits in `PC`, so it is not reduced (R145). -/
theorem toNat_zext16_add_addrOf (b : Byte) (nnn : Addr12) :
    (zext16 b + addrOf nnn).toNat = b.toNat + nnn.toNat := by
  have hb : (zext16 b).toNat = b.toNat := BitVec.toNat_setWidth_of_le (by decide)
  have := b.isLt
  have := nnn.isLt
  rw [BitVec.toNat_add, hb, toNat_addrOf]
  omega

/-- Settles O25: each jump is one write of `PC`. -/
theorem jumpResults : Obligations.JumpResults := fun nnn s =>
  ⟨⟨_, rfl, toNat_addrOf nnn, unchanged_setPc s _⟩, ⟨_, rfl, toNat_zext16_add_addrOf _ nnn, unchanged_setPc s _⟩⟩

/-! ## The comparing skips (R148 to R151) -/

/-- A skip on a test that says `p` adds 4 to `PC` when `p` holds and 2 otherwise, and does nothing else. -/
theorem pcWritten_skipIf (s : State) {c : Bool} {p : Prop} [Decidable p] (hc : c = true ↔ p) :
    PcWritten s (s.skipIf c) (s.pc + if p then 4 else 2) :=
  ⟨congrArg (s.pc + ·) (if_congr hc rfl rfl), unchanged_skipIf s c⟩

/-- Settles O30: each test of the four says its comparison. -/
theorem compareSkipResults : Obligations.CompareSkipResults := fun _ _ _ s =>
  ⟨⟨_, rfl, pcWritten_skipIf s beq_iff_eq⟩, ⟨_, rfl, pcWritten_skipIf s bne_iff_ne⟩,
    ⟨_, rfl, pcWritten_skipIf s beq_iff_eq⟩, ⟨_, rfl, pcWritten_skipIf s bne_iff_ne⟩⟩

/-! ## Call and return (R142 to R144, R147) -/

/-- An instruction that raises records the kind of its error and halts, with every other piece kept (R257). -/
theorem exec_raised_kind {i : Instr} {s : State} {k : ErrorKind} (h : raises i s = some k) :
    ∃ t, exec i s = .next t ∧ t.err.kind = k ∧ t.run = .halted ∧ UnchangedExcept [.err, .run] s t := by
  obtain ⟨t, ht, herr, hrun, hframe⟩ := exec_raised h
  exact ⟨t, ht, congrArg ErrorRecord.kind herr, hrun, hframe⟩

/-- Settles O27: below 16 the call writes the entry at `SP` only; at 16 it raises. -/
theorem callResult : Obligations.CallResult := by
  refine fun nnn s => ⟨fun h => ?push, fun h => exec_raised_kind (i := .call nnn) (if_pos h)⟩
  case push =>
    have hr : raises (.call nnn) s = none := if_neg h
    have hs := raises_call_eq_none hr
    have hcall := exec_call hs nnn
    refine ⟨_, hcall, toNat_addrOf nnn, rfl, ?entry, fun k hk => ?others, ?frame⟩
    case entry => simp [hs]
    case others => simp [hk.symm]
    case frame => exact (exec_frame hr hcall).mono (by simp [writesOf])

/-- Settles O28: above 0 the return reads the entry below `SP` and writes none; at 0 it raises. -/
theorem returnResult : Obligations.ReturnResult := by
  refine fun s => ⟨fun h => ?pop, fun h => exec_raised_kind (i := .ret) (if_pos h)⟩
  case pop =>
    have hr : raises .ret s = none := if_neg h
    have hs := raises_ret_eq_none hr
    have hret := exec_ret hs
    refine ⟨_, hret, Nat.sub_add_cancel hs, ?entry, rfl, ?frame⟩
    case entry => exact Vector.getElem?_eq_getElem _
    case frame => exact (exec_frame hr hret).mono (by simp [writesOf])

/-- Writing the entry at `SP`, which is not in use, leaves the entries in use as they were (R26). -/
theorem liveStack_eq_of_set {s w : State} {a : Word} (hs : s.sp.val < 16) (hsp : w.sp = s.sp)
    (hstk : w.stk = s.stk.set s.sp.val a) : w.liveStack = s.liveStack := by
  rw [State.liveStack, hsp, hstk, Vector.toList_set, List.take_set_of_le le_rfl, State.liveStack]

/-- Settles O29: the entry the call writes is the one the return reads, and the return takes it out of use again. -/
theorem callThenReturnComesBack : Obligations.CallThenReturnComesBack := by
  intro nnn s t u h hcall hsp hstk
  have hs : s.sp.val < 16 := raises_call_eq_none (nnn := nnn) (if_neg h)
  cases (exec_call hs nnn).symm.trans hcall
  simp only [setPc_sp, setPc_stk, setStack_sp, setStack_stk] at hsp hstk
  have hpos : 0 < u.sp.val := hsp ▸ Nat.succ_pos _
  have hpop : (⟨u.sp.val - 1, by omega⟩ : Fin 17) = s.sp := by simp [hsp]
  refine ⟨_, exec_ret hpos, ?pc, hpop, liveStack_eq_of_set hs hpop hstk⟩
  case pc => simp [hsp, hstk]

end Sys2Proof.Machine
end

section
/-! PROOFS. The register and arithmetic family (42_register_alu.md): the values of the operations as numbers, the two shapes of
a register write, the flag-writing instructions for every `y` (VF included), and `V[F]` or one register as both operands. -/

namespace Sys2Proof.Machine

/-! ## Values and flags as numbers (R161, R163, R168 to R172) -/

theorem add_eq_ofNat (a b : Byte) : a + b = BitVec.ofNat 8 ((a.toNat + b.toNat) % 256) :=
  BitVec.eq_of_toNat_eq (by simp)

theorem sub_eq_ofNat (a b : Byte) : a - b = BitVec.ofNat 8 ((256 + a.toNat - b.toNat) % 256) := by
  have := b.isLt
  apply BitVec.eq_of_toNat_eq
  rw [BitVec.toNat_sub, BitVec.toNat_ofNat]
  omega

theorem ushiftRight_one_eq_ofNat (a : Byte) : a >>> 1 = BitVec.ofNat 8 (a.toNat / 2) := by
  have := a.isLt
  apply BitVec.eq_of_toNat_eq
  rw [BitVec.toNat_ushiftRight, BitVec.toNat_ofNat, Nat.shiftRight_one]
  omega

theorem shiftLeft_one_eq_ofNat (a : Byte) : a <<< 1 = BitVec.ofNat 8 (a.toNat * 2 % 256) := by
  apply BitVec.eq_of_toNat_eq
  rw [BitVec.toNat_shiftLeft, BitVec.toNat_ofNat, Nat.shiftLeft_eq]
  omega

/-- A flag whose test says `p` is written as 1 when `p` holds and 0 otherwise (R22, R161). -/
theorem flagByte_eq_ite {f : Bool} {p : Prop} [Decidable p] (h : f = true ↔ p) : flagByte f = if p then 1 else 0 :=
  if_congr h rfl rfl

theorem flagByte_carryOf (a b : Byte) : flagByte (carryOf a b) = if 255 < a.toNat + b.toNat then 1 else 0 :=
  flagByte_eq_ite decide_eq_true_iff

theorem flagByte_noBorrow (a b : Byte) : flagByte (noBorrow a b) = if b.toNat ≤ a.toNat then 1 else 0 :=
  flagByte_eq_ite decide_eq_true_iff

theorem flagByte_shiftedOutRight (a : Byte) : flagByte (shiftedOutRight a) = BitVec.ofNat 8 (a.toNat % 2) := by
  have hbit : shiftedOutRight a = true ↔ a.toNat % 2 = 1 := by
    rw [shiftedOutRight, BitVec.getLsbD, Nat.testBit_zero, decide_eq_true_iff]
  rw [flagByte_eq_ite hbit]
  obtain h | h := Nat.mod_two_eq_zero_or_one a.toNat <;> rw [h] <;> rfl

theorem flagByte_shiftedOutLeft (a : Byte) : flagByte (shiftedOutLeft a) = BitVec.ofNat 8 (a.toNat / 128) := by
  have hbit : shiftedOutLeft a = true ↔ 128 ≤ a.toNat := by
    rw [shiftedOutLeft, ← BitVec.msb_eq_getLsbD_last, BitVec.msb_eq_decide, decide_eq_true_iff]
  have := a.isLt
  have hquot : a.toNat / 128 = if 128 ≤ a.toNat then 1 else 0 := by split <;> omega
  rw [flagByte_eq_ite hbit, hquot, apply_ite (BitVec.ofNat 8)]
  rfl

/-! ## Register writes -/

/-- A register write and `PC + 2` (R162 to R167), with the written value as the statement spells it. -/
theorem regWritten_writeV (s : State) (x : RegIdx) {b c : Byte} (hb : b = c) :
    RegWritten s (s.writeV x b).advance x c :=
  ⟨(readV_writeV_same s x b).trans hb, fun _ hr => readV_writeV_other s hr b, rfl,
    (unchanged_writeV s x b).trans (unchanged_advance _)⟩

/-- Writing back what a register holds changes nothing. -/
theorem writeV_readV (s : State) (x : RegIdx) : s.writeV x (s.readV x) = s :=
  congrArg s.setV (Vector.set_getElem_self x.isLt)

/-- A register write of the value that is there leaves `PC + 2` as the only change (R175). -/
theorem pcWritten_writeV_self (s : State) (x : RegIdx) {b : Byte} (hb : b = s.readV x) :
    PcWritten s (s.writeV x b).advance (s.pc + 2) := by
  rw [hb, writeV_readV]
  exact ⟨rfl, unchanged_advance s⟩

/-- With `x` not F a flagged write leaves the result in `V[x]` and the flag in VF (R161). -/
theorem regAndFlagWritten_writeFlagged (s : State) {x : RegIdx} (hx : x ≠ flagReg) {f : Bool} {b c g : Byte}
    (hb : b = c) (hf : flagByte f = g) : RegAndFlagWritten s (s.writeFlagged x f b) x c g := by
  refine ⟨?result, ?flag, fun r hr hrf => ?others, rfl, unchanged_writeFlagged s x f b⟩
  case result => rw [readV_writeFlagged, if_pos rfl, hb]
  case flag => rw [readV_writeFlagged, if_neg hx.symm, if_pos rfl, hf]
  case others => rw [readV_writeFlagged, if_neg hr, if_neg hrf]

/-- With `x = F` the result is written over the flag (R174). -/
theorem regWritten_writeFlagged (s : State) (f : Bool) {b c : Byte} (hb : b = c) :
    RegWritten s (s.writeFlagged flagReg f b) flagReg c := by
  refine ⟨?result, fun r hr => ?others, rfl, unchanged_writeFlagged s flagReg f b⟩
  case result => rw [readV_writeFlagged, if_pos rfl, hb]
  case others => rw [readV_writeFlagged, if_neg hr, if_neg hr]

/-! ## The flag-writing instructions with a second operand, for every `y` (R168, R169, R171, R174) -/

/-- `8xy4` with `x` not F: the operands are read before the flag is written, so `y` may be F. -/
theorem exec_add_written {x : RegIdx} (hx : x ≠ flagReg) (y : RegIdx) (s : State) :
    ∃ t, exec (.add x y) s = .next t ∧
      RegAndFlagWritten s t x (BitVec.ofNat 8 (((s.readV x).toNat + (s.readV y).toNat) % 256))
        (if 255 < (s.readV x).toNat + (s.readV y).toNat then 1 else 0) :=
  ⟨_, rfl, regAndFlagWritten_writeFlagged s hx (add_eq_ofNat _ _) (flagByte_carryOf _ _)⟩

/-- `8xy5` with `x` not F. -/
theorem exec_sub_written {x : RegIdx} (hx : x ≠ flagReg) (y : RegIdx) (s : State) :
    ∃ t, exec (.sub x y) s = .next t ∧
      RegAndFlagWritten s t x (BitVec.ofNat 8 ((256 + (s.readV x).toNat - (s.readV y).toNat) % 256))
        (if (s.readV y).toNat ≤ (s.readV x).toNat then 1 else 0) :=
  ⟨_, rfl, regAndFlagWritten_writeFlagged s hx (sub_eq_ofNat _ _) (flagByte_noBorrow _ _)⟩

/-- `8xy7` with `x` not F. -/
theorem exec_subn_written {x : RegIdx} (hx : x ≠ flagReg) (y : RegIdx) (s : State) :
    ∃ t, exec (.subn x y) s = .next t ∧
      RegAndFlagWritten s t x (BitVec.ofNat 8 ((256 + (s.readV y).toNat - (s.readV x).toNat) % 256))
        (if (s.readV x).toNat ≤ (s.readV y).toNat then 1 else 0) :=
  ⟨_, rfl, regAndFlagWritten_writeFlagged s hx (sub_eq_ofNat _ _) (flagByte_noBorrow _ _)⟩

/-! ## The statements -/

/-- Settles O17: each is one register write. -/
theorem loadAddMoveResults : Obligations.LoadAddMoveResults := fun x _ _ s =>
  ⟨⟨_, rfl, regWritten_writeV s x rfl⟩, ⟨_, rfl, regWritten_writeV s x (add_eq_ofNat _ _)⟩,
    ⟨_, rfl, regWritten_writeV s x rfl⟩⟩

/-- Settles O18: each is one register write, of the model's own bitwise operation. -/
theorem logicResults : Obligations.LogicResults := fun x _ s =>
  ⟨⟨_, rfl, regWritten_writeV s x rfl⟩, ⟨_, rfl, regWritten_writeV s x rfl⟩, ⟨_, rfl, regWritten_writeV s x rfl⟩⟩

/-- Settles O19: a flagged write of the sum and its carry. -/
theorem addResult : Obligations.AddResult := fun _ y s hx _ => exec_add_written hx y s

/-- Settles O20: flagged writes of the two differences and their borrows. -/
theorem subtractResults : Obligations.SubtractResults := fun _ y s hx _ =>
  ⟨exec_sub_written hx y s, exec_subn_written hx y s⟩

/-- Settles O21: flagged writes of `V[x]` halved and doubled and of the bit each shift drops. -/
theorem shiftResults : Obligations.ShiftResults := fun _ _ s hx =>
  ⟨⟨_, rfl, regAndFlagWritten_writeFlagged s hx (ushiftRight_one_eq_ofNat _) (flagByte_shiftedOutRight _)⟩,
    ⟨_, rfl, regAndFlagWritten_writeFlagged s hx (shiftLeft_one_eq_ofNat _) (flagByte_shiftedOutLeft _)⟩⟩

/-- Settles O22: with `x = F` the result overwrites the flag; with `y = F` the operand is read before the flag is written. -/
theorem flagRegisterOperandResults : Obligations.FlagRegisterOperandResults := by
  intro x y s hx
  refine ⟨⟨_, rfl, ?add⟩, ⟨_, rfl, ?sub⟩, ⟨_, rfl, ?subn⟩, ⟨_, rfl, ?shr⟩, ⟨_, rfl, ?shl⟩,
    exec_add_written hx flagReg s, exec_sub_written hx flagReg s, exec_subn_written hx flagReg s⟩
  case add => exact regWritten_writeFlagged s _ (add_eq_ofNat _ _)
  case sub => exact regWritten_writeFlagged s _ (sub_eq_ofNat _ _)
  case subn => exact regWritten_writeFlagged s _ (sub_eq_ofNat _ _)
  case shr => exact regWritten_writeFlagged s _ (ushiftRight_one_eq_ofNat _)
  case shl => exact regWritten_writeFlagged s _ (shiftLeft_one_eq_ofNat _)

/-- Settles O23: the two values are equal, so `MOV`, `OR` and `AND` write back what is there, and the sum, the difference and
their flags are functions of one byte. -/
theorem sameRegisterOperandResults : Obligations.SameRegisterOperandResults := by
  intro x s hx
  have hcarry : carryOf (s.readV x) (s.readV x) = true ↔ 128 ≤ (s.readV x).toNat :=
    decide_eq_true_iff.trans (by omega)
  have hnoBorrow : flagByte (noBorrow (s.readV x) (s.readV x)) = 1 := congrArg flagByte (decide_eq_true le_rfl)
  refine ⟨⟨_, rfl, ?mov⟩, ⟨_, rfl, ?or⟩, ⟨_, rfl, ?and⟩, ⟨_, rfl, ?xor⟩, ⟨_, rfl, ?add⟩, ⟨_, rfl, ?sub⟩, ⟨_, rfl, ?subn⟩⟩
  case mov => exact pcWritten_writeV_self s x rfl
  case or => exact pcWritten_writeV_self s x BitVec.or_self
  case and => exact pcWritten_writeV_self s x BitVec.and_self
  case xor => exact regWritten_writeV s x BitVec.xor_self
  case add =>
    refine regAndFlagWritten_writeFlagged s hx ?_ (flagByte_eq_ite hcarry)
    rw [add_eq_ofNat, Nat.two_mul]
  case sub => exact regAndFlagWritten_writeFlagged s hx (BitVec.sub_self _) hnoBorrow
  case subn => exact regAndFlagWritten_writeFlagged s hx (BitVec.sub_self _) hnoBorrow

/-- Settles O24: the counter goes up and the masked byte of the count before is written. -/
theorem randomByteUnderMask : Obligations.RandomByteUnderMask := fun x nn s =>
  ⟨_, rfl, readV_writeV_same s.countRandomDraw x _, fun _ hr => readV_writeV_other s.countRandomDraw hr _, rfl, rfl,
    (exec_frame (i := .rnd x nn) rfl rfl).mono (by simp [writesOf])⟩

end Sys2Proof.Machine
end

section
/-! PROOFS. The index and memory family (43_index_and_memory.md): the values written to `I`, a byte read back inside and
outside the run that was stored, and the results of `BCD`, `STM` and `LDM`. -/

namespace Sys2Proof.Machine

/-! ## The values written to `I` (R191, R192) -/

theorem toNat_indexSum (i : Word) (b : Byte) : (indexSum i b).toNat = (i.toNat + b.toNat) % 4096 :=
  (BitVec.toNat_ofNat _ _).trans (Nat.mod_eq_of_lt (by omega))

/-- The glyph address of any byte, even one that is no hex digit, fits in `I`, so it is not reduced. -/
theorem toNat_glyphAddress (b : Byte) : (glyphAddress b).toNat = Config.fontBase + 5 * b.toNat := by
  have hbase := fontBase_le
  have hb := b.isLt
  exact (BitVec.toNat_ofNat _ _).trans (Nat.mod_eq_of_lt (by unfold Config.glyphLen; omega))

/-! ## Inside and outside a stored run (R64) -/

/-- The byte at offset `k` of a run just stored is the run's `k`-th byte. -/
theorem read_writeRun_offset (m : Memory) {a k : Nat} {bs : List Byte} (hfit : a + bs.length ≤ Config.memSize)
    (hk : k < bs.length) : (m.writeRun a bs).read (a + k) = bs[k] := by
  rw [read_writeRun m a bs hfit, dif_pos ⟨Nat.le_add_right a k, Nat.add_lt_add_left hk a⟩]
  simp only [Nat.add_sub_cancel_left]

/-- An instruction that stores at `I` to `I + n` stores neither below `I` nor above `I + n`. -/
theorem storesTo_outside {i : Instr} {s : State} {n a : Nat} (hlen : storeLength i = n + 1)
    (ha : a < s.base ∨ s.base + n < a) : storesTo i s a = false := by
  rw [storesTo, hlen, ← Bool.decide_and, decide_eq_false_iff_not]
  omega

theorem raises_bcd_of_fits {x : RegIdx} {s : State} (hfit : s.base + 2 ≤ 0xFFF) : raises (.bcd x) s = none := by
  rw [raises_bcd, (outOfRange_false_iff _ _).2 fun _ => Nat.succ_le_succ hfit]; rfl

/-- `BCD` puts the `k`-th digit at `I + k`, hundreds first (R193). -/
theorem readByte_of_bcd {x : RegIdx} {s t : State} (hfit : s.base + 2 ≤ 0xFFF) (h : exec (.bcd x) s = .next t)
    (k : Fin 3) : t.readByte (s.base + k) = (bcdDigits (s.readV x))[k] := by
  cases (exec_bcd (raises_bcd_of_fits hfit)).symm.trans h
  exact read_writeRun_offset s.mem (Nat.succ_le_succ hfit) k.isLt

/-! ## The statements -/

/-- Settles O34: the three digits are the run `BCD` stores. -/
theorem decimalDigitsStored : Obligations.DecimalDigitsStored := by
  intro x s hfit
  have hr := raises_bcd_of_fits (x := x) hfit
  have h := exec_bcd hr
  have hdigit := readByte_of_bcd hfit h
  exact ⟨_, h, hdigit 0, hdigit 1, hdigit 2, fun _ ha => exec_readByte h (storesTo_outside rfl ha), rfl, exec_frame hr h⟩

/-- Settles O35: the registers `V[0..x]` are the run `STM` stores. -/
theorem registersStored : Obligations.RegistersStored := by
  intro x s hfit
  have hr := raises_stm_of_fits hfit
  have h := exec_stm hr
  exact ⟨_, h, fun _ hk => readByte_of_stm hfit h hk, fun _ ha => exec_readByte h (storesTo_outside rfl ha), rfl,
    exec_frame hr h⟩

/-- Settles O36: the registers up to `x` get the run `LDM` reads; a register above `x` is no destination of it. -/
theorem registersLoaded : Obligations.RegistersLoaded := by
  intro x s hfit
  have hr := raises_ldm_of_fits hfit
  have h := exec_ldm hr
  have hpc : (s.writeRegs 0 (s.mem.readRun s.base (runLength x))).pc = s.pc := unchanged_writeRegs s _ _ .pc (by simp)
  refine ⟨_, h, fun k hk => readV_of_ldm hfit h hk, fun k hk => ?above, congrArg (· + 2) hpc, exec_frame hr h⟩
  case above => exact registersChangeOnlyAsDestinations (.ldm x) s _ k h (decide_eq_false (Nat.not_le.2 hk)) (.inr rfl)

/-- Settles O32: each is one write of `I` and `PC + 2`. -/
theorem indexRegisterResults : Obligations.IndexRegisterResults := fun nnn x _ =>
  ⟨⟨_, rfl, toNat_addrOf nnn, rfl, exec_frame (i := .ldix nnn) rfl rfl⟩,
    ⟨_, rfl, toNat_indexSum _ _, rfl, exec_frame (i := .addix x) rfl rfl⟩⟩

/-- Settles O33: one write of `I`, of an address that needs no reduction. -/
theorem glyphAddressResult : Obligations.GlyphAddressResult := fun x _ =>
  ⟨_, rfl, toNat_glyphAddress _, rfl, exec_frame (i := .font x) rfl rfl⟩

end Sys2Proof.Machine
end

section
/-! PROOFS. The display family (44_display.md): no two bits of a sprite share a cell, so a draw toggles different cells; what a
draw does to a cell and to VF; what a second draw of the same cells does; and start coordinates that wrap. -/

namespace Sys2Proof.Machine

/-! ## The cells of a sprite are all different (R211, R213) -/

/-- Fewer rows than the screen has and fewer columns than it has never wrap onto one another. -/
theorem spriteCell_inj {vx vy : Byte} {r r' c c' : Nat} (hr : r < 32) (hr' : r' < 32) (hc : c < 64) (hc' : c' < 64)
    (h : spriteCell vx vy r c = spriteCell vx vy r' c') : r = r' ∧ c = c' := by
  unfold spriteCell at h
  have hcolumn : (vx.toNat + c) % 64 = (vx.toNat + c') % 64 := by omega
  have hrow : (vy.toNat + r) % 32 = (vy.toNat + r') % 32 := by omega
  exact ⟨by omega, by omega⟩

theorem mem_rowCells {vx vy : Byte} {r p : Nat} {b : Byte} :
    p ∈ rowCells vx vy r b ↔ ∃ c, c < 8 ∧ spriteBit b c = true ∧ spriteCell vx vy r c = p := by
  simp only [rowCells, List.mem_map, List.mem_filter, List.mem_range, and_assoc]

theorem nodup_rowCells (vx vy : Byte) {r : Nat} (b : Byte) (hr : r < 32) : (rowCells vx vy r b).Nodup := by
  refine List.Nodup.map_on (fun c hc c' hc' h => ?_) (List.nodup_range.filter _)
  have hlt := List.mem_range.1 (List.mem_of_mem_filter hc)
  have hlt' := List.mem_range.1 (List.mem_of_mem_filter hc')
  exact (spriteCell_inj hr hr (by omega) (by omega) h).2

theorem nodup_spriteCells (vx vy : Byte) {r : Nat} {rows : List Byte} (hfit : r + rows.length ≤ 32) :
    (spriteCells vx vy r rows).Nodup := by
  induction rows generalizing r with
  | nil => exact List.nodup_nil
  | cons b rows ih =>
    rw [List.length_cons] at hfit
    refine (nodup_rowCells vx vy b (by omega)).append (ih (by omega)) fun p hrow hrest => ?disjoint
    case disjoint =>
      obtain ⟨c, hc, -, rfl⟩ := mem_rowCells.1 hrow
      obtain ⟨k, hk, c', hc', -, h⟩ := (mem_spriteCells ..).1 hrest
      have := (spriteCell_inj (by omega) (by omega) (by omega) (by omega) h).1
      omega

/-! ## What a `Dxyn` draws (R212) -/

/-- The cells that the set bits of the sprite of a `Dxyn` land on, in the order they are toggled. -/
def State.drawnCells (s : State) (x y : RegIdx) (n : Nibble) : List Nat :=
  spriteCells (s.readV x) (s.readV y) 0 (s.mem.readRun s.base n.toNat)

section

variable {x y : RegIdx} {n : Nibble} {s t : State}

theorem mem_drawnCells {p : Nat} : p ∈ s.drawnCells x y n ↔ SpriteHits s x y n p := by
  simp only [State.drawnCells, mem_spriteCells, length_readRun, getElem_readRun, Nat.zero_add]
  constructor
  · rintro ⟨r, hr, c, hc, hbit, hcell⟩
    exact ⟨r, c, hr, hc, hbit, hcell⟩
  · rintro ⟨r, c, hr, hc, hbit, hcell⟩
    exact ⟨r, hr, c, hc, hbit, hcell⟩

theorem drawn_eq (s : State) (x y : RegIdx) (n : Nibble) :
    s.drawn x y n = Blit.toggleAll ⟨s.fb, false⟩ (s.drawnCells x y n) := blitRows_eq ..

/-- A draw toggles cells of the screen that are all different. -/
theorem drawn_spec (s : State) (x y : RegIdx) (n : Nibble) :
    (∀ p, (s.drawn x y n).fb.pixel p = if p ∈ s.drawnCells x y n then !s.pixel p else s.pixel p) ∧
      (s.drawn x y n).hit = (s.drawnCells x y n).any s.pixel := by
  have hn := n.isLt
  have hnodup : (s.drawnCells x y n).Nodup := nodup_spriteCells _ _ (by rw [length_readRun]; omega)
  rw [drawn_eq]
  exact toggleAll_spec ⟨s.fb, false⟩ hnodup fun _ => spriteCells_lt

theorem drawn_hit_iff : (s.drawn x y n).hit = true ↔ ∃ p, SpriteHits s x y n p ∧ s.pixel p = true := by
  simp only [(drawn_spec s x y n).2, List.any_eq_true, mem_drawnCells]

/-! ## What the instruction does -/

theorem raises_drw_of_fits (hfit : n = 0 ∨ s.base + n.toNat - 1 ≤ 0xFFF) : raises (.drw x y n) s = none := by
  have hin : outOfRange s.base n.toNat = false := by
    rw [Bool.eq_false_iff, ne_eq, outOfRange_iff]
    rintro ⟨hpos, habove⟩
    obtain rfl | hle := hfit
    · exact absurd hpos (by decide)
    · omega
  rw [raises_drw, hin]; rfl

theorem pixel_of_drw (hr : raises (.drw x y n) s = none) (h : exec (.drw x y n) s = .next t) (p : Nat) :
    t.pixel p = if p ∈ s.drawnCells x y n then !s.pixel p else s.pixel p := by
  cases (exec_drw hr).symm.trans h
  exact (drawn_spec s x y n).1 p

theorem flag_of_drw (hr : raises (.drw x y n) s = none) (h : exec (.drw x y n) s = .next t) :
    t.readV flagReg = flagByte (s.drawn x y n).hit := by
  cases (exec_drw hr).symm.trans h
  exact readV_writeV_same ..

theorem flag_eq_one_of_drw (hr : raises (.drw x y n) s = none) (h : exec (.drw x y n) s = .next t) :
    t.readV flagReg = 1 ↔ ∃ p, SpriteHits s x y n p ∧ s.pixel p = true := by
  rw [flag_of_drw hr h, ← drawn_hit_iff]
  cases (s.drawn x y n).hit <;> decide

end

/-! ## Start coordinates (R211) -/

/-- A draw sees its start coordinates only through the cells they give. -/
theorem drawSprite_congr {vx vy vx' vy' : Byte} (h : ∀ r c, spriteCell vx vy r c = spriteCell vx' vy' r c)
    (rows : List Byte) (fb : Framebuffer) : drawSprite vx vy rows fb = drawSprite vx' vy' rows fb := by
  have hcells (r : Nat) : spriteCells vx vy r rows = spriteCells vx' vy' r rows := by
    induction rows generalizing r with
    | nil => rfl
    | cons b rows ih => simp only [spriteCells, rowCells, ih, funext (h r)]
  simp only [drawSprite, blitRows_eq, hcells]

theorem spriteCell_add_width (vx vy : Byte) (r c : Nat) : spriteCell (vx + 64) vy r c = spriteCell vx vy r c := by
  have hsum : (vx + 64).toNat = (vx.toNat + 64) % 256 := BitVec.toNat_add ..
  simp only [spriteCell, hsum]
  omega

theorem spriteCell_add_height (vx vy : Byte) (r c : Nat) : spriteCell vx (vy + 32) r c = spriteCell vx vy r c := by
  have hsum : (vy + 32).toNat = (vy.toNat + 32) % 256 := BitVec.toNat_add ..
  simp only [spriteCell, hsum]
  omega

/-! ## The statements -/

/-- Settles O41: the toggled cells are the hit cells, each toggled once, and the flag byte is written last. -/
theorem drawIsXorWithCollision : Obligations.DrawIsXorWithCollision := by
  intro x y n s hfit
  have hr := raises_drw_of_fits (x := x) (y := y) hfit
  have h := exec_drw hr
  have hpixel := pixel_of_drw hr h
  refine ⟨_, h, fun p hp => ?flipped, fun p hp => ?kept, (flag_eq_one_of_drw hr h).2, fun hnone => ?clear,
    fun _ hne => readV_writeV_other (s.setFb _) hne _, rfl, exec_frame hr h⟩
  case flipped => rw [hpixel, if_pos (mem_drawnCells.2 hp)]
  case kept => rw [hpixel, if_neg (mt mem_drawnCells.1 hp)]
  case clear => rw [flag_of_drw hr h, Bool.eq_false_iff.2 (mt drawn_hit_iff.1 hnone), flagByte_false]

/-- Settles O43: the second draw toggles the same cells, which are by then the opposite of what they were. -/
theorem drawTwiceRestoresTheScreen : Obligations.DrawTwiceRestoresTheScreen := by
  intro x y n s t u w hfit hst hfb hmem hi hx hy huw
  have hbase : u.base = s.base := congrArg BitVec.toNat hi
  have hr := raises_drw_of_fits (x := x) (y := y) hfit
  have hr' := raises_drw_of_fits (x := x) (y := y) (s := u) (hbase ▸ hfit)
  have hcells : u.drawnCells x y n = s.drawnCells x y n := by simp only [State.drawnCells, hx, hy, hmem, hbase]
  have hpixel (p : Nat) : u.pixel p = if p ∈ s.drawnCells x y n then !s.pixel p else s.pixel p := by
    rw [State.pixel, hfb]; exact pixel_of_drw hr hst p
  refine ⟨fun p => ?restored, flag_eq_one_of_drw hr hst, (flag_eq_one_of_drw hr' huw).trans ?second⟩
  case restored =>
    rw [pixel_of_drw hr' huw, hcells, hpixel]
    split
    · exact Bool.not_not _
    · rfl
  case second =>
    refine exists_congr fun p => ?_
    rw [← mem_drawnCells, ← mem_drawnCells, hcells]
    refine and_congr_right fun hp => ?_
    rw [hpixel, if_pos hp, Bool.not_eq_true']

/-- Settles O44: the shifted coordinates give every bit the same cell. -/
theorem drawWrapsStartCoordinates : Obligations.DrawWrapsStartCoordinates := fun vx vy rows fb =>
  ⟨drawSprite_congr (spriteCell_add_width vx vy) rows fb, drawSprite_congr (spriteCell_add_height vx vy) rows fb⟩

/-- Settles O40: one write of the blank framebuffer and `PC + 2`. -/
theorem clearScreenResult : Obligations.ClearScreenResult := fun _ =>
  ⟨_, rfl, fun p _ => pixel_blank p, rfl, exec_frame (i := .cls) rfl rfl⟩

/-- Settles O42: with no row the drawn framebuffer is the one that was there, so only VF is written. -/
theorem drawWithoutRows : Obligations.DrawWithoutRows := fun x y s =>
  ⟨_, exec_drw (raises_drw_of_fits (.inl rfl)), regWritten_writeV s flagReg (rfl : flagByte (s.drawn x y 0).hit = 0)⟩

/-- Settles O45: a sprite has fewer rows and columns than the screen. -/
theorem spriteCellsAreDistinct : Obligations.SpriteCellsAreDistinct := fun _ _ _ _ _ _ hr hr' hc hc' =>
  spriteCell_inj (by omega) (by omega) (by omega) (by omega)

end Sys2Proof.Machine
end

section
/-! PROOFS. The keys and timers family (45_keys_and_timer_access.md): the delay timer under every step (R238, R265), the key
event (R235), the key skips (R230, R231, R233), the key wait (R234) and timer access (R232, R236, R237). -/

namespace Sys2Proof.Machine

/-! ## The delay timer under every step -/

/-- The word a fetch answers is the one its two bytes spell (R63, R124). -/
theorem fetchedWord_of_fetch {s : State} {op : Word} (h : s.fetch = some op) : FetchedWord s op := by
  have hp : s.pc.toNat ≤ 0xFFE := Nat.not_lt.1 fun hlt => nomatch (fetch_eq_none.2 hlt).symm.trans h
  cases (fetch_eq_some hp).symm.trans h
  exact ⟨hp, toNat_wordOfBytes _ _⟩

/-- `SETDT` is the only instruction that writes DT (R35, R236). -/
theorem eq_setdt_of_mem_writesOf {i : Instr} (h : .dt ∈ writesOf i) : ∃ x, i = .setdt x := by
  cases i with
  | setdt x => exact ⟨x, rfl⟩
  | _ => simp [writesOf] at h

theorem exec_dt {i : Instr} {s t : State} (h : exec i s = .next t) (hi : ∀ x, i ≠ .setdt x) : t.dt = s.dt := by
  have hdt : .dt ∉ writesOf i := fun hmem => (eq_setdt_of_mem_writesOf hmem).elim hi
  exact exec_unchanged h .dt (by simpa using hdt)

@[simp] theorem takeUnknown_dt (s : State) (policy : Config.UnknownPolicy) (op : Word) :
    (s.takeUnknown policy op).dt = s.dt := by cases policy <;> rfl

@[simp] theorem keyStep_dt (s : State) (k : Key) : (s.keyStep k).dt = s.dt := by
  unfold State.keyStep; split <;> rfl

/-- An instruction step that runs no `SETDT` keeps DT. -/
theorem instructionStep_dt {s t : State}
    (hno : s.run = .running → ∀ op x, FetchedWord s op → decodeWord op ≠ .known (.setdt x))
    (ht : instructionStep s = .next t) : t.dt = s.dt := by
  obtain ⟨-, hs⟩ | ⟨-, -, hs⟩ | ⟨op, -, -, -, -, hs⟩ | ⟨op, i, hr, -, hf, hd, hs⟩ := instructionStep_cases s
  · cases hs.symm.trans ht; rfl
  · cases hs.symm.trans ht; rfl
  · cases hs.symm.trans ht; exact takeUnknown_dt s _ op
  · exact exec_dt (hs.symm.trans ht) fun x hi => hno hr op x (fetchedWord_of_fetch hf) (hi ▸ hd)

theorem toNat_tickStep_dt (s : State) : s.tickStep.dt.toNat = s.dt.toNat - 1 := countDown_toNat s.dt

/-- `k` ticks take DT down by `k`, to zero at the least (R238, R265). -/
theorem toNat_repeat_tickStep_dt (k : Nat) (s : State) :
    (Nat.repeat State.tickStep k s).dt.toNat = s.dt.toNat - k := by
  induction k with
  | zero => rfl
  | succ k ih => rw [Nat.repeat, toNat_tickStep_dt, ih, Nat.sub_sub]

/-- Settles O48: with resets and `SETDT` set aside only a tick changes DT, and it counts down. -/
theorem delayTimerOnlyCountsDown : Obligations.DelayTimerOnlyCountsDown := by
  refine ⟨fun s t hreset hsetdt ht => ?step, toNat_repeat_tickStep_dt⟩
  case step =>
    obtain ⟨s0, hreq, hs⟩ | ⟨rest, -, hs⟩ | ⟨key, rest, -, hs⟩ | ⟨program, rest, hq, -⟩ := step_cases s
    · obtain ⟨rest, rfl⟩ := stepRequested_same hreq
      have hkept : t.dt = s.dt :=
        instructionStep_dt (s := s.setHostInputs rest) (fun hr op x hf => hsetdt _ op x hreq hr hf) (hs.symm.trans ht)
      exact (congrArg BitVec.toNat hkept).le
    · cases hs.symm.trans ht
      exact (toNat_tickStep_dt (s.setHostInputs rest)).trans_le (Nat.sub_le _ 1)
    · cases hs.symm.trans ht
      exact (congrArg BitVec.toNat (keyStep_dt (s.setHostInputs rest) key)).le
    · exact absurd hq (hreset program rest)

/-! ## The key event -/

theorem unchanged_setHostInputs (s : State) (a : List HostInput) :
    UnchangedExcept [.hostInputs] s (s.setHostInputs a) := by
  intro q hq; cases q <;> simp_all [Same, State.readV, State.readByte, State.pixel]

/-- What completing a wait leaves alone (R235). -/
theorem unchanged_keyStep_awaiting {s : State} {r : RegIdx} (hr : s.run = .awaitingKey r) (k : Key) :
    UnchangedExcept [.v, .pc, .run] s (s.keyStep k) := by
  rw [keyStep_awaiting hr]
  exact ((unchanged_writeV s r _).trans (unchanged_advance _)).trans (unchanged_setRun _ _)

/-- Settles O12: taking the event off the queue changes nothing else, and the key event itself is one of its two cases. -/
theorem keyEventStep : Obligations.KeyEventStep := by
  refine ⟨fun s r k rest hr hq => ?completes, fun s k rest hne hq => ?dropped⟩
  case completes =>
    have hkey := keyStep_awaiting (s := s.setHostInputs rest) hr k
    have hframe := (unchanged_setHostInputs s rest).trans (unchanged_keyStep_awaiting (s := s.setHostInputs rest) hr k)
    rw [hkey] at hframe
    refine ⟨_, (step_keyEvent hq).trans (congrArg _ hkey), ?value, fun _ hx => ?others, rfl, rfl, rfl,
      hframe.mono (by simp)⟩
    case value => exact (readV_writeV_same (s.setHostInputs rest) r _).trans (BitVec.ofNat_toNat 8 k).symm
    case others => exact readV_writeV_other (s.setHostInputs rest) hx _
  case dropped => exact (step_keyEvent hq).trans (congrArg _ (keyStep_other (s := s.setHostInputs rest) hne k))

/-! ## The key skips -/

/-- The key asked about is the low nibble of `V[x]` as a number (R233). -/
theorem keyOf_eq_ofNat (s : State) (x : RegIdx) : s.keyOf x = BitVec.ofNat 4 ((s.readV x).toNat % 16) :=
  BitVec.eq_of_toNat_eq (by simp [State.keyOf])

theorem keyAnswer_eq (s : State) (x : RegIdx) :
    s.keyAnswer x = Config.keyPressed s.keyQueries (BitVec.ofNat 4 ((s.readV x).toNat % 16)) :=
  congrArg _ (keyOf_eq_ofNat s x)

/-- A skip on the opposite of a test. -/
theorem skipIf_not_pc (s : State) (c : Bool) : (s.skipIf !c).pc = s.pc + if c = true then 2 else 4 := by
  cases c <;> rfl

/-- Settles O31: one query, and one skip on its answer or on the opposite of it. -/
theorem keySkipResults : Obligations.KeySkipResults := by
  intro x s
  rw [← keyAnswer_eq]
  exact ⟨⟨_, rfl, skipIf_pc s.countKeyQuery _, rfl, exec_frame (i := .skp x) rfl rfl⟩,
    ⟨_, rfl, skipIf_not_pc s.countKeyQuery _, rfl, exec_frame (i := .sknp x) rfl rfl⟩⟩

/-! ## Timer access and the key wait -/

/-- Settles O46: each is one write of the register or of the timer, and `PC + 2`. -/
theorem timerAccessResults : Obligations.TimerAccessResults := fun x s =>
  ⟨⟨_, rfl, regWritten_writeV s x rfl⟩, ⟨_, rfl, rfl, rfl, exec_frame (i := .setdt x) rfl rfl⟩,
    ⟨_, rfl, rfl, rfl, exec_frame (i := .setst x) rfl rfl⟩⟩

/-- Settles O47: one write of the run state. -/
theorem keyWaitResult : Obligations.KeyWaitResult := fun _ s => ⟨_, rfl, rfl, unchanged_setRun s _⟩

end Sys2Proof.Machine
end

section
/-! PROOFS. The exceptions family (60_exceptions.md): the error an instruction raises (R250, R257, R259, R264), the tick
(R265), a core that waits or is halted (R260, R271), and unknown words under each policy (R258). -/

namespace Sys2Proof.Machine

/-! ## Instructions that raise nothing -/

/-- No instruction writes `ERR` on its own; only an error does (R35, R257). -/
theorem err_not_mem_writesOf (i : Instr) : .err ∉ writesOf i := by
  cases i <;> simp [writesOf]

/-- `WAITK` is the only instruction that writes the run state without an error (R31, R234). -/
theorem exec_run {i : Instr} {s t : State} (hr : raises i s = none) (h : exec i s = .next t) :
    t.run = s.run ∨ ∃ x, i = .waitk x ∧ t.run = .awaitingKey x := by
  cases i with
  | waitk x => cases h; exact .inr ⟨x, rfl, rfl⟩
  | _ => exact .inl (exec_frame hr h .run (by simp [writesOf]))

/-- Settles O54: where nothing is raised the frame keeps `ERR`, where something is the error entry holds the record. -/
theorem errorsExactlyAsListed : Obligations.ErrorsExactlyAsListed := by
  refine fun i s => ⟨fun hr => ?quiet, fun k hr => ?raised⟩
  case quiet =>
    obtain ⟨t, ht⟩ := exec_next i s
    exact ⟨t, ht, exec_frame hr ht .err (err_not_mem_writesOf i), exec_run hr ht⟩
  case raised =>
    obtain ⟨t, ht, herr, hrun, hframe⟩ := exec_raised hr
    exact ⟨t, ht, congrArg ErrorRecord.kind herr, congrArg ErrorRecord.pc herr,
      congrArg ErrorRecord.opcode herr, hrun, hframe⟩

/-! ## The tick -/

theorem unchanged_tickStep (s : State) : UnchangedExcept [.dt, .st] s s.tickStep :=
  (unchanged_setDt s _).trans (unchanged_setSt _ _)

/-- Settles O11: a tick is the two writes of the timers, after it is taken off the queue. -/
theorem tickCountsBothTimersDown : Obligations.TickCountsBothTimersDown := by
  intro s rest hq
  have hframe := (unchanged_setHostInputs s rest).trans (unchanged_tickStep _)
  exact ⟨_, step_tick hq, countDown_toNat s.dt, countDown_toNat s.st, rfl, hframe.mono (by simp)⟩

/-! ## A core that waits or is halted -/

/-- What is delivered to a core that does not run changes the timers and the queue at most, a reset and the key event that
completes a wait aside (R121, R260, R271). -/
theorem unchanged_step_of_not_running {s t : State} (hr : s.run ≠ .running)
    (hkey : ∀ k rest r, s.hostInputs = .keyEvent k :: rest → s.run ≠ .awaitingKey r)
    (hreset : ∀ program rest, s.hostInputs ≠ .reset program :: rest) (ht : step s = .next t) :
    UnchangedExcept [.dt, .st, .hostInputs] s t := by
  obtain ⟨s0, hreq, -⟩ | ⟨rest, -, hs⟩ | ⟨k, rest, hq, hs⟩ | ⟨program, rest, hq, -⟩ := step_cases s
  · obtain ⟨rest, rfl⟩ := stepRequested_same hreq
    cases (step_requested_idle hreq hr).symm.trans ht
    exact (unchanged_setHostInputs s rest).mono (by simp)
  · cases hs.symm.trans ht
    exact ((unchanged_setHostInputs s rest).trans (unchanged_tickStep _)).mono (by simp)
  · rw [keyStep_other (s := s.setHostInputs rest) fun r => hkey k rest r hq] at hs
    cases hs.symm.trans ht
    exact (unchanged_setHostInputs s rest).mono (by simp)
  · exact absurd hq (hreset program rest)

/-- Settles O55: the run state is among what such a step keeps, and a halted core drops key events. -/
theorem onlyResetLeavesHalted : Obligations.OnlyResetLeavesHalted := by
  intro s t hr hreset ht
  have hframe := unchanged_step_of_not_running (by simp [hr]) (by simp [hr]) hreset ht
  exact ⟨Eq.trans (hframe .run (by simp)) hr, hframe⟩

/-- An instruction of a running core that leaves it waiting is `WAITK` (R31): an error would have halted the core. -/
theorem eq_waitk_of_awaiting {i : Instr} {s t : State} {r : RegIdx} (hr : s.run = .running) (h : exec i s = .next t)
    (hw : t.run = .awaitingKey r) : i = .waitk r := by
  cases hi : raises i s with
  | some k => cases (exec_of_raises hi).symm.trans h; cases hw
  | none =>
    obtain hsame | ⟨x, rfl, hx⟩ := exec_run hi h
    · cases hr.symm.trans (hsame.symm.trans hw)
    · cases hx.symm.trans hw; rfl

/-- Settles O49: the frozen wait, the key event that ends it, and the one instruction that begins it. -/
theorem waitingCoreIsFrozen : Obligations.WaitingCoreIsFrozen := by
  refine ⟨fun s t r hr hkey hreset ht => ?frozen, fun s r k rest hr hq => ?woken,
    fun i s t r hr h hw => eq_waitk_of_awaiting hr h hw⟩
  case frozen =>
    have hframe := unchanged_step_of_not_running (by simp [hr]) (fun k rest _ hq => absurd hq (hkey k rest)) hreset ht
    exact ⟨Eq.trans (hframe .run (by simp)) hr, hframe⟩
  case woken =>
    obtain ⟨t, ht, -, hregs, -, hrun, -, hframe⟩ := keyEventStep.1 s r k rest hr hq
    exact ⟨t, ht, hrun, hregs, hframe⟩

/-! ## Unknown words -/

/-- A requested step of a running core does what its fetched word does (R124, R131), the request taken off the queue. -/
theorem step_fetched {s s0 : State} {op : Word} (h : StepRequested s s0) (hr : s.run = .running)
    (hf : FetchedWord s op) : step s = runWord op s0 := by
  obtain ⟨rest, rfl⟩ := stepRequested_same h
  have hfetch : (s.setHostInputs rest).fetch = some op := fetch_of_fetchedWord hf
  rw [step_requested h, instructionStep_fetch (s := s.setHostInputs rest) hr hfetch]

/-- Settles O8: strict is the error entry, permissive the record and `PC + 2`. -/
theorem unknownWordOutcome : Obligations.UnknownWordOutcome := by
  refine ⟨fun s s0 op h hr hf hd => ?policy, fun s op => ?strict, fun s op => ?permissive⟩
  case policy => rw [step_fetched h hr hf, runWord, hd]
  case strict => exact ⟨rfl, rfl, unchanged_raiseError s _ _ _⟩
  case permissive => exact ⟨rfl, rfl, (unchanged_setErr s _).trans (unchanged_advance _)⟩

end Sys2Proof.Machine
end

section
/-! PROOFS. The reset family (70_reset_and_hazards.md): what a reset leaves when the program fits (R290), when it does not
(R292), and the first step after a reset without a program (R293). -/

namespace Sys2Proof.Machine

/-! ## The two states that a reset constructs -/

theorem resetState_of_fits {program : List Byte} (h : program.length ≤ Config.maxProg) :
    resetState program = State.reset.setMem (Memory.image Config.progBase program) :=
  if_pos (decide_eq_true h)

/-- The load failure is a fatal error of the reset state (R292). -/
theorem resetState_of_tooLong {program : List Byte} (h : Config.maxProg < program.length) :
    resetState program = State.reset.raiseError .loadError none none := by
  have hfit : ¬ programFits program = true := by simpa [programFits] using h
  exact if_neg hfit

/-- What the host still delivers and the counts of questions to the outside are all that a reset keeps (R45, log 5). -/
theorem unchanged_hostReset (s : State) (program : List Byte) :
    UnchangedExcept [.v, .i, .pc, .stack, .dt, .st, .mem, .fb, .run, .err] s (s.hostReset program) := by
  intro q hq
  cases q with
  | hostInputs | randomDraws | keyQueries => rfl
  | _ => simp at hq

/-! ## Registers and stack entries after reset -/

theorem readV_reset (r : RegIdx) : State.reset.readV r = 0 := by
  simp [State.readV, State.reset]

theorem getElem_stk_reset (k : Fin 16) : State.reset.stk[k] = 0 := by
  simp [State.reset]

/-! ## Memory after reset -/

/-- Outside the font an unlisted address reads as zero (R36). -/
theorem initial_of_outside_font {a : Nat} (h : a < Config.fontBase ∨ Config.fontBase + 80 ≤ a) :
    Memory.initial a = 0 := by
  have hfont : ¬ (Config.fontBase ≤ a ∧ a < Config.fontBase + 80) := by omega
  rw [Memory.initial, dif_neg hfont, ite_self]

/-- A loaded image holds its bytes at ascending addresses (R64, R290). -/
theorem read_image_of_getElem? {bs : List Byte} {k : Nat} {b : Byte} (h : bs[k]? = some b) (a : Nat) :
    (Memory.image a bs).read (a + k) = b := by
  obtain ⟨hk, rfl⟩ := List.getElem?_eq_some_iff.1 h
  rw [read_image, dif_pos (by omega)]
  simp

/-- Around a loaded image memory reads as it would without one. -/
theorem read_image_of_outside {bs : List Byte} {a b : Nat} (h : b < a ∨ a + bs.length ≤ b) :
    (Memory.image a bs).read b = Memory.initial b := by
  rw [read_image, dif_neg (by omega)]

/-- The program leaves the font in place, which ends below it (R6, R290). -/
theorem read_image_font (program : List Byte) (k : Fin 80) :
    (Memory.image Config.progBase program).read (Config.fontBase + k.val) = Config.fontTable k := by
  have hbelow : Config.fontBase + k.val < Config.progBase := by
    have := fontBase_le
    unfold Config.progBase
    omega
  rw [read_image_of_outside (.inl hbelow), initial_font]

/-! ## The statements -/

/-- Settles O13: memory is the program's image, every other piece is that of the reset state. -/
theorem resetLoadsTheProgram : Obligations.ResetLoadsTheProgram := by
  intro s program rest hq hfit
  have hframe := ((unchanged_setHostInputs s rest).trans (unchanged_hostReset _ program)).mono
    (qs := [.v, .i, .pc, .stack, .dt, .st, .mem, .fb, .run, .err, .hostInputs]) (by simp)
  refine ⟨_, step_reset hq, ?_⟩
  rw [State.hostReset, resetState_of_fits hfit] at hframe ⊢
  exact ⟨fun k b hb => read_image_of_getElem? hb _, read_image_font program,
    fun a _ hfont hprog => (read_image_of_outside hprog).trans (initial_of_outside_font hfont),
    readV_reset, rfl, rfl, rfl, rfl, getElem_stk_reset, pixel_blank, rfl, rfl, rfl, rfl, hframe⟩

/-- Settles O14: memory lists nothing, the record is the load error's, every other piece is that of the reset state. -/
theorem oversizedProgramHalts : Obligations.OversizedProgramHalts := by
  intro s program rest hq hlong
  refine ⟨_, step_reset hq, ?_⟩
  rw [State.hostReset, resetState_of_tooLong hlong]
  exact ⟨rfl, rfl, initial_font, fun a _ hfont => initial_of_outside_font hfont,
    readV_reset, rfl, rfl, rfl, rfl, getElem_stk_reset, pixel_blank, rfl, rfl⟩

/-- Settles O16: the two bytes at 0x200 are zero, and the word they form is unknown. -/
theorem emptyProgramMeetsAnUnknownWord : Obligations.EmptyProgramMeetsAnUnknownWord := by
  have hfetch : FetchedWord State.reset 0x0000 := ⟨by decide, by decide⟩
  have hdecode : decodeWord 0x0000 = .unknown 0x0000 := by decide
  exact unknownWordOutcome.1 State.reset State.reset 0x0000 (.inl ⟨rfl, rfl⟩) rfl hfetch hdecode

end Sys2Proof.Machine
end
